-- ==== Sys2Proof/Word.lean ====
section
/-! DEFINITION. The words of the machine (00_scope.md R9, R16; 30_encoding.md R70). -/

namespace Sys2Proof

/-- A memory cell's content: one byte of 8 bits (R9). -/
abbrev Byte := BitVec 8

/-- A coordinate, a dimension, a colour operand, any 16-bit operand field (R9, R70, R74). -/
abbrev Half := BitVec 16

/-- A 32-bit unsigned byte address (R9, R50). -/
abbrev Addr := BitVec 32

/-- A command word, `cmd_data[111:0]` (R43, R70). -/
abbrev CmdWord := BitVec 112

end Sys2Proof
end

