-- ==== Sys2Proof/Config.lean ====
section
/-! DEFINITION. The two named implementation parameters (00_scope.md R10, R11, R12). There are no others.

The spec asks that a model take them as arguments (92_eei_decisions.md, last paragraph). They stand as plain data in
the machine's state, no step changes them, and so a statement about every state holds for every value of them
(log 3). The model has no opaque constant: the one value the spec leaves free, what memory holds at launch (R52),
is also data of the state (log 2). -/

namespace Sys2Proof

/-- `PACK_ORDER` (R10): which end of a byte holds the pixel with the lowest x. -/
inductive PackOrder where
  /-- The pixel with in-byte index 0 is in the most significant bits (the default). -/
  | msbFirst
  /-- The pixel with in-byte index 0 is in the least significant bits. -/
  | lsbFirst
deriving DecidableEq, Repr

/-- `HT_SNAP` (R11): a table from a residue in 0, 1, 2 to a signed offset. -/
structure HtSnap where
  at0 : Int
  at1 : Int
  at2 : Int
deriving DecidableEq, Repr

/-- The parameters of one block. -/
structure Config where
  packOrder : PackOrder
  htSnap : HtSnap
deriving DecidableEq, Repr

/-- The spec's defaults: MSB_FIRST (R10) and +1, 0, -1 (R11). -/
def Config.default : Config :=
  { packOrder := .msbFirst, htSnap := { at0 := 1, at1 := 0, at2 := -1 } }

/-- What the spec fixes of `HT_SNAP` (R11, R183): residue 1 leaves the coordinate as it is, residues 0 and 2 move
it by one, in opposite directions. -/
abbrev HtSnap.Legal (t : HtSnap) : Prop :=
  t.at1 = 0 ∧ (t.at0 = 1 ∧ t.at2 = -1 ∨ t.at0 = -1 ∧ t.at2 = 1)

end Sys2Proof
end

