-- ==== Sys2Proof/Machine/State.lean ====
section
/-! DEFINITION. The state of the machine as plain data, its reset value, and the ways a step can stop
(10_state.md; 70_reset_and_hazards.md R220, R221). -/

namespace Sys2Proof.Machine

open Sys2Proof

/-- `BPP`: exactly these four values (10_state.md R27). -/
inductive Bpp where
  | b1
  | b2
  | b4
  | b8
deriving DecidableEq, Repr

/-- `ROT`: exactly these four values (10_state.md R28). -/
inductive Rotation where
  | deg0
  | deg90
  | deg180
  | deg270
deriving DecidableEq, Repr

/-- `MIR`: exactly these four values (10_state.md R29). -/
inductive Mirror where
  | none
  | horizontal
  | vertical
  | both
deriving DecidableEq, Repr

/-- The memory (20_memory.md R50): the bytes that differ from `launch`, at strictly rising addresses below 2^32.
An address that is not listed reads as `launch`, the byte the memory held there at launch (R52; log 2). -/
structure Memory where
  launch : Byte
  cells : List Host.Cell
deriving DecidableEq, Repr

/-- What the host presents to the block, one event at a time (10_state.md R42 to R44; log 1). -/
inductive Input where
  /-- A command offered and accepted on the command port (R43). -/
  | command (w : CmdWord)
  /-- `rst` sampled high between commands (R42, R220). -/
  | reset
  /-- The command `w` is accepted, and `rst` is sampled high before it completes, when the bytes at the addresses
  `landed` already hold what the command leaves there (R42, R221; log 4). -/
  | resetDuring (w : CmdWord) (landed : List Addr)
  /-- Between commands the host, or whoever owns the memory, writes one byte (20_memory.md R52; R228; log 5). -/
  | hostWrite (a : Addr) (v : Byte)
deriving DecidableEq, Repr

/-- The complete state (10_state.md R20): the seven configuration registers, `STATUS` and the memory; beside them
the block's two parameters (log 3) and the host's pending events, which are the model's own (log 1). -/
structure State where
  cfg : Config
  bufBase : Addr
  wm : Half
  hm : Half
  bpp : Bpp
  rot : Rotation
  mir : Mirror
  colorFlag : Half
  status : BitVec 2
  mem : Memory
  inputs : List Input
deriving DecidableEq, Repr

/-- What the status outputs show (10_state.md R46), at the widths of R47. -/
structure Outputs where
  bufBase : BitVec 32
  wm : BitVec 16
  hm : BitVec 16
  bpp : BitVec 4
  rot : BitVec 2
  mir : BitVec 2
  colorFlag : BitVec 16
  w : BitVec 16
  h : BitVec 16
  wb : BitVec 16
  grayScale : BitVec 9
  bufSize : BitVec 32
  status : BitVec 2
deriving DecidableEq, Repr

/-- No event stops the block (60_exceptions.md R200, R206: "There are no other faults"; R157: the commands "never
fail"). The type has no constructor, so the model cannot fault: neither safe nor unsafe, there is no such case. -/
inductive Fault where
deriving DecidableEq, Repr

/-- The reasons a step can refuse. -/
inductive Refusal where
  /-- A command without a meaning. Raised by no arm of this model: all nine commands have their meaning. Safe. -/
  | notModelled (mnemonic : String)
deriving DecidableEq, Repr

/-- The state right after reset (70_reset_and_hazards.md R220): every register at the value the spec states.
The parameters are at the spec's defaults (R10, R11). Memory lists nothing; reset does not write it (R221), and what
it holds at launch is not in the spec: the byte 0xA5 stands for "arbitrary" here (DESIGN CHOICE, log 2: unsafe if
a claim rests on it, and none does). No event is pending (DESIGN CHOICE, log 1). -/
def State.reset : State :=
  { cfg := Config.default
    bufBase := 0x00000000
    wm := 0
    hm := 0
    bpp := .b8
    rot := .deg0
    mir := .none
    colorFlag := 0x0000
    status := 0b00
    mem := { launch := 0xA5, cells := [] }
    inputs := [] }

end Sys2Proof.Machine
end

