-- ==== Sys2Proof/Machine/Operands.lean ====
section
/-! DEFINITION. Operand forms: the three validated operands (30_encoding.md R75 to R77), the register codes, and the
colour operands (R79 to R81). -/

namespace Sys2Proof.Machine

open Sys2Proof

/-- The rotation an operand in degrees asks for; any other value is a configuration error (R75). -/
def Rotation.ofDegrees (r : Half) : Option Rotation :=
  if r = 0 then some .deg0
  else if r = 90 then some .deg90
  else if r = 180 then some .deg180
  else if r = 270 then some .deg270
  else Option.none

/-- The mirror an operand asks for; any other value is a configuration error (R76). -/
def Mirror.ofOperand (m : Half) : Option Mirror :=
  if m = 0 then some .none
  else if m = 1 then some .horizontal
  else if m = 2 then some .vertical
  else if m = 3 then some .both
  else Option.none

/-- The depth an operand asks for; any other value is a configuration error (R77). -/
def Bpp.ofOperand (b : Half) : Option Bpp :=
  if b = 1 then some .b1
  else if b = 2 then some .b2
  else if b = 4 then some .b4
  else if b = 8 then some .b8
  else Option.none

/-- The stored code of a rotation, degrees / 90 (10_state.md R28). -/
def Rotation.code : Rotation → BitVec 2
  | .deg0 => 0
  | .deg90 => 1
  | .deg180 => 2
  | .deg270 => 3

/-- The stored code of a mirror: bit 0 horizontal, bit 1 vertical (10_state.md R29). -/
def Mirror.code : Mirror → BitVec 2
  | .none => 0
  | .horizontal => 1
  | .vertical => 2
  | .both => 3

/-- The number of bits per pixel (10_state.md R27). -/
def Bpp.bits : Bpp → Nat
  | .b1 => 1
  | .b2 => 2
  | .b4 => 4
  | .b8 => 8

/-- `TOP(BPP)`: the colour bits a pixel write uses (R79). -/
def Bpp.top : Bpp → Byte
  | .b1 => 0x80
  | .b2 => 0xC0
  | .b4 => 0xF0
  | .b8 => 0xF0

/-- The low byte of a colour operand; bits 15:8 never matter (R79, R80). -/
def lowByte (color : Half) : Byte := color.setWidth 8

/-- The intensity a pixel write uses: `color & TOP(BPP)` (R79). -/
def pixelColor (b : Bpp) (color : Half) : Byte := lowByte color &&& b.top

/-- The blue channel, `(color >> 4) & 0xF0` (R81, 43_halftone.md R181). -/
def blueOf (color : Half) : Byte := lowByte ((color >>> 4) &&& 0x00F0)

/-- The green channel, `color & 0xF0` (R81, R181). -/
def greenOf (color : Half) : Byte := lowByte (color &&& 0x00F0)

/-- The red channel, `(color << 4) & 0xF0` (R81, R181). -/
def redOf (color : Half) : Byte := lowByte ((color <<< 4) &&& 0x00F0)

end Sys2Proof.Machine
end

