-- ==== Sys2Proof/Machine/Ops.lean ====
section
/-! DEFINITION. The shared operations: the memory primitives (20_memory.md R52), the writes of registers, the derived
values (10_state.md, section 3), the status outputs (R46), the buffer range (R54) and reset (R220).

The block has no trap: an abnormal event saves no state and sends control nowhere (60_exceptions.md R209), and there
is no return (R210). What stands in the place of an exception entry is the pair of sticky warnings in Flags.lean. -/

namespace Sys2Proof.Machine

open Sys2Proof

/-! ### Memory -/

/-- The byte listed for an address, if one is. -/
def lookupCell : List Host.Cell → Nat → Option Byte
  | [], _ => none
  | (b, v) :: rest, a => if b = a then some v else lookupCell rest a

/-- Take an address off the list. -/
def eraseCell : List Host.Cell → Nat → List Host.Cell
  | [], _ => []
  | (b, u) :: rest, a => if b = a then eraseCell rest a else (b, u) :: eraseCell rest a

/-- List a byte at an address, keeping the addresses rising. -/
def insertCell : List Host.Cell → Nat → Byte → List Host.Cell
  | [], a, v => [(a, v)]
  | (b, u) :: rest, a, v =>
      if a < b then (a, v) :: (b, u) :: rest
      else if a = b then (a, v) :: rest
      else (b, u) :: insertCell rest a v

/-- `MemRead(a, 1)` (R52). -/
def Memory.read (m : Memory) (a : Addr) : Byte := (lookupCell m.cells a.toNat).getD m.launch

/-- `MemWrite(a, 1, v)` (R52), keeping the list canonical. -/
def Memory.write (m : Memory) (a : Addr) (v : Byte) : Memory :=
  { launch := m.launch
    cells := if v = m.launch then eraseCell m.cells a.toNat else insertCell m.cells a.toNat v }

/-- The memory `m` with the bytes at the addresses of the list taken from `new`. -/
def Memory.copyBytes (m new : Memory) (l : List Addr) : Memory := l.foldl (fun m a => m.write a (new.read a)) m

/-- Addresses from `lo` on, strictly rising, below 2^32, and no byte equal to the launch byte. -/
def cellsCanonical (launch : Byte) : Nat → List Host.Cell → Bool
  | _, [] => true
  | lo, (a, v) :: rest =>
      decide (lo ≤ a) && decide (a < 2 ^ 32) && (v != launch) && cellsCanonical launch (a + 1) rest

/-- The canonical form of a memory: equal memories are equal data. -/
def Memory.wf (m : Memory) : Bool := cellsCanonical m.launch 0 m.cells

/-! ### Writes of the state, one home for each -/

/-- Replace the memory. -/
def State.setMem (s : State) (m : Memory) : State := { s with mem := m }

/-- Write `BUF_BASE` (R24). -/
def State.setBufBase (s : State) (a : Addr) : State := { s with bufBase := a }

/-- Write `ROT` (R28). -/
def State.setRot (s : State) (r : Rotation) : State := { s with rot := r }

/-- Write `MIR` (R29). -/
def State.setMir (s : State) (m : Mirror) : State := { s with mir := m }

/-- Write `BPP` (R27). -/
def State.setBpp (s : State) (b : Bpp) : State := { s with bpp := b }

/-- Write `STATUS` (R36). -/
def State.setStatus (s : State) (v : BitVec 2) : State := { s with status := v }

/-- What an accepted NEW writes: all seven configuration registers at once (42_framebuffer_commands.md R140). -/
def State.setGeometry (s : State) (buf : Addr) (width height : Half) (r : Rotation) (colorFlag : Half) : State :=
  { s with
    bufBase := buf
    wm := width
    hm := height
    rot := r
    mir := .none
    bpp := .b8
    colorFlag := colorFlag }

/-- Replace the pending events (log 1). -/
def State.setInputs (s : State) (l : List Input) : State := { s with inputs := l }

/-- Reset (70_reset_and_hazards.md R220, R221): every register and `STATUS` take their reset values; memory is not
touched; the parameters belong to the block and the pending events to the host. -/
def State.resetRegs (s : State) : State :=
  { State.reset with cfg := s.cfg, mem := s.mem, inputs := s.inputs }

/-! ### Derived values -/

/-- `WB`, ceil(WM*BPP/8), formed without wrap-around (R31). -/
def State.wb (s : State) : Nat := (s.wm.toNat * s.bpp.bits + 7) / 8

/-- `W`, the logical width (R32). -/
def State.w (s : State) : Half :=
  match s.rot with
  | .deg0 => s.wm
  | .deg90 => s.hm
  | .deg180 => s.wm
  | .deg270 => s.hm

/-- `H`, the logical height (R32). -/
def State.h (s : State) : Half :=
  match s.rot with
  | .deg0 => s.hm
  | .deg90 => s.wm
  | .deg180 => s.hm
  | .deg270 => s.wm

/-- `GRAY_SCALE`, 2^BPP (R33). -/
def State.grayScale (s : State) : Nat := 2 ^ s.bpp.bits

/-- `BUF_SIZE`, WB*HM (R34). -/
def State.bufSize (s : State) : Nat := s.wb * s.hm.toNat

/-- The status outputs (R46). -/
def State.outputs (s : State) : Outputs :=
  { bufBase := s.bufBase
    wm := s.wm
    hm := s.hm
    bpp := BitVec.ofNat 4 s.bpp.bits
    rot := s.rot.code
    mir := s.mir.code
    colorFlag := s.colorFlag
    w := s.w
    h := s.h
    wb := BitVec.ofNat 16 s.wb
    grayScale := BitVec.ofNat 9 s.grayScale
    bufSize := BitVec.ofNat 32 s.bufSize
    status := s.status }

/-! ### The buffer range -/

/-- The address of byte offset `i`: mod32(BUF_BASE + i) (20_memory.md R54, 40_pixel_packer.md R102). -/
def State.bufAddr (s : State) (i : Nat) : Addr := BitVec.ofNat 32 (s.bufBase.toNat + i)

/-- The address lies in the buffer range (R54): its distance from BUF_BASE modulo 2^32 is below BUF_SIZE. -/
def State.inBuffer (s : State) (a : Addr) : Bool := decide ((a - s.bufBase).toNat < s.bufSize)

end Sys2Proof.Machine
end

