-- ==== Sys2Proof/Machine/Flags.lean ====
section
/-! DEFINITION. `STATUS`, the block's only flags (10_state.md R36, R37), and the two events that set them
(60_exceptions.md R201, R204). -/

namespace Sys2Proof.Machine

open Sys2Proof

/-- `STATUS[0]`, CFG_WARN (R36). -/
def State.cfgWarn (s : State) : Bool := s.status.getLsbD 0

/-- `STATUS[1]`, ILL_CMD (R36). -/
def State.illCmd (s : State) : Bool := s.status.getLsbD 1

/-- `warn CFG_WARN` (00_scope.md R18, R201): the bit is set, and stays. -/
def warnCfg (s : State) : State := s.setStatus (s.status ||| 0b01)

/-- `warn ILL_CMD` (R18, R204): the bit is set, and stays. -/
def warnIll (s : State) : State := s.setStatus (s.status ||| 0b10)

end Sys2Proof.Machine
end

