-- ==== Sys2Proof/Machine/ConfigCommands.lean ====
section
/-! DEFINITION. The configuration commands (42_framebuffer_commands.md R140 to R145). None accesses memory. -/

namespace Sys2Proof.Machine

open Sys2Proof

/-- What a rejected configuration command does, in full (R145): it sets CFG_WARN and completes. -/
def rejectConfig (s : State) : Host.Outcome State Fault Refusal := .next (warnCfg s)

/-- NEW (R140). -/
def execNew (buf : Addr) (width height rotation colorFlag : Half) (s : State) : Host.Outcome State Fault Refusal :=
  match Rotation.ofDegrees rotation with
  | some r => .next (s.setGeometry buf width height r colorFlag)
  | none => rejectConfig s

/-- SELECT_BUFFER (R141). -/
def execSelectBuffer (buf : Addr) (s : State) : Host.Outcome State Fault Refusal :=
  .next (s.setBufBase buf)

/-- SET_ROTATION (R142). -/
def execSetRotation (rotation : Half) (s : State) : Host.Outcome State Fault Refusal :=
  match Rotation.ofDegrees rotation with
  | some r => .next (s.setRot r)
  | none => rejectConfig s

/-- SET_MIRROR (R143). -/
def execSetMirror (mirror : Half) (s : State) : Host.Outcome State Fault Refusal :=
  match Mirror.ofOperand mirror with
  | some m => .next (s.setMir m)
  | none => rejectConfig s

/-- SET_BPP (R144). -/
def execSetBpp (bpp : Half) (s : State) : Host.Outcome State Fault Refusal :=
  match Bpp.ofOperand bpp with
  | some b => .next (s.setBpp b)
  | none => rejectConfig s

end Sys2Proof.Machine
end

