-- ==== Sys2Proof/Machine/Mapper.lean ====
section
/-! DEFINITION. rotation_mirror_coordinate_mapper (41_coordinate_mapper.md): rotation first, mirror second (R120).
16-bit subtraction is the spec's `mod16`. ROT and MIR hold only recognised values, so the map is total (R123). -/

namespace Sys2Proof.Machine

open Sys2Proof

/-- The rotation stage (R121). -/
def rotateStage (s : State) (x y : Half) : Half × Half :=
  match s.rot with
  | .deg0 => (x, y)
  | .deg90 => (s.wm - y - 1, x)
  | .deg180 => (s.wm - x - 1, s.hm - y - 1)
  | .deg270 => (y, s.hm - x - 1)

/-- The mirror stage (R122). It is its own inverse. -/
def mirrorStage (s : State) (xr yr : Half) : Half × Half :=
  match s.mir with
  | .none => (xr, yr)
  | .horizontal => (s.wm - xr - 1, yr)
  | .vertical => (xr, s.hm - yr - 1)
  | .both => (s.wm - xr - 1, s.hm - yr - 1)

/-- `ToPhysical(x, y)` (R120). -/
def toPhysical (s : State) (x y : Half) : Half × Half :=
  mirrorStage s (rotateStage s x y).1 (rotateStage s x y).2

/-- The inverse of the rotation stage (R126). -/
def unrotateStage (s : State) (xr yr : Half) : Half × Half :=
  match s.rot with
  | .deg0 => (xr, yr)
  | .deg90 => (yr, s.wm - xr - 1)
  | .deg180 => (s.wm - xr - 1, s.hm - yr - 1)
  | .deg270 => (s.hm - yr - 1, xr)

/-- `ToLogical(x_phys, y_phys)` (R126): unmirror, then rotate back; a function of the spec for stating tests. -/
def toLogical (s : State) (xPhys yPhys : Half) : Half × Half :=
  unrotateStage s (mirrorStage s xPhys yPhys).1 (mirrorStage s xPhys yPhys).2

end Sys2Proof.Machine
end

