-- ==== Sys2Proof/Machine/Packer.lean ====
section
/-! DEFINITION. pixel_packer (40_pixel_packer.md): byte offset, field position, masked write of one pixel. It checks
nothing (R100); its caller does. -/

namespace Sys2Proof.Machine

open Sys2Proof

/-- `ByteOffset(x_phys, y_phys)`: `x*BPP/8 + y*WB`, the product divided first, no wrap-around (R101). -/
def State.byteOffset (s : State) (xPhys yPhys : Half) : Nat :=
  xPhys.toNat * s.bpp.bits / 8 + yPhys.toNat * s.wb

/-- The in-byte index k = x_phys % (8 / BPP) (00_scope.md R19, R103). -/
def inByteIndex (b : Bpp) (xPhys : Half) : Nat := xPhys.toNat % (8 / b.bits)

/-- The document's selector s (R103). At BPP 8 there is none; the whole byte is the field. -/
def selector (b : Bpp) (xPhys : Half) : Nat :=
  match b with
  | .b1 => xPhys.toNat % 8
  | .b2 => (xPhys.toNat * 2 + 1) % 8
  | .b4 => (xPhys.toNat * 4 + 3) % 8
  | .b8 => 7

/-- `Shift(x_phys)`: how far the left-aligned mask is moved right to cover the pixel's field (R104). -/
def fieldShift (o : PackOrder) (b : Bpp) (xPhys : Half) : Nat :=
  match o with
  | .msbFirst => inByteIndex b xPhys * b.bits
  | .lsbFirst => 8 - b.bits - inByteIndex b xPhys * b.bits

/-- `Mask(x_phys) = TOP(BPP) >> Shift(x_phys)` (R104). -/
def fieldMask (o : PackOrder) (b : Bpp) (xPhys : Half) : Byte := b.top >>> fieldShift o b xPhys

/-- The new value of a byte after a masked write at BPP 4, 2, 1 (R106): the field is cleared, then set from the top
bits of the colour. -/
def mergeField (o : PackOrder) (b : Bpp) (xPhys color : Half) (old : Byte) : Byte :=
  (old &&& ~~~ fieldMask o b xPhys) ||| (pixelColor b color >>> fieldShift o b xPhys)

/-- `WritePixel(a, x_phys, color)`: at BPP 8 one store of `color & 0xF0` and no read (R105); below, one read and one
write of the same byte (R106). -/
def writePixel (s : State) (a : Addr) (xPhys color : Half) (m : Memory) : Memory :=
  match s.bpp with
  | .b8 => m.write a (pixelColor .b8 color)
  | .b4 => m.write a (mergeField s.cfg.packOrder .b4 xPhys color (m.read a))
  | .b2 => m.write a (mergeField s.cfg.packOrder .b2 xPhys color (m.read a))
  | .b1 => m.write a (mergeField s.cfg.packOrder .b1 xPhys color (m.read a))

/-- `ReadField(byte, x_phys)` (R108): the field left-aligned; a function of the spec for stating tests. -/
def readField (o : PackOrder) (b : Bpp) (xPhys : Half) (v : Byte) : Byte :=
  match b with
  | .b8 => v
  | .b4 => (v <<< fieldShift o .b4 xPhys) &&& Bpp.top .b4
  | .b2 => (v <<< fieldShift o .b2 xPhys) &&& Bpp.top .b2
  | .b1 => (v <<< fieldShift o .b1 xPhys) &&& Bpp.top .b1

end Sys2Proof.Machine
end

