-- ==== Sys2Proof/Machine/Pixel.lean ====
section
/-! DEFINITION. The internal pixel write (42_framebuffer_commands.md R150) and a sequence of them. Both read the
registers of `s` and no memory but the one they are given: a pixel write changes nothing else (R150, R157). -/

namespace Sys2Proof.Machine

open Sys2Proof

/-- One pixel to write, in logical coordinates. -/
structure Pixel where
  x : Half
  y : Half
  color : Half
deriving DecidableEq, Repr

/-- Where a pixel write lands: the byte's address and the physical column that picks the field, or nothing where the
write is dropped (60_exceptions.md R202, R203). The checks are in the order of R150, R152: logical bounds, transform,
physical bounds. -/
def pixelTarget (s : State) (x y : Half) : Option (Addr × Half) :=
  if s.w ≤ x ∨ s.h ≤ y then none
  else if s.wm ≤ (toPhysical s x y).1 ∨ s.hm ≤ (toPhysical s x y).2 then none
  else some (s.bufAddr (s.byteOffset (toPhysical s x y).1 (toPhysical s x y).2), (toPhysical s x y).1)

/-- `PixelWrite(x, y, color)` (R150). -/
def pixelWrite (s : State) (m : Memory) (p : Pixel) : Memory :=
  match pixelTarget s p.x p.y with
  | none => m
  | some (a, xPhys) => writePixel s a xPhys p.color m

/-- Pixel writes one after the other, in the order of the list; a dropped one does not stop the rest (R156). -/
def drawPixels (s : State) (ps : List Pixel) : State :=
  s.setMem (ps.foldl (pixelWrite s) s.mem)

/-- The field of a logical pixel, left-aligned, or nothing where the pixel has no place in the buffer: `ReadField`
(40_pixel_packer.md R108) of its byte; for stating properties, not an operation of the block (R46). -/
def readPixel (s : State) (x y : Half) : Option Byte :=
  match pixelTarget s x y with
  | none => none
  | some (a, xPhys) => some (readField s.cfg.packOrder s.bpp xPhys (s.mem.read a))

end Sys2Proof.Machine
end

