-- ==== Sys2Proof/Machine/DrawCommands.lean ====
section
/-! DEFINITION. The drawing commands of the framebuffer (42_framebuffer_commands.md R151 to R157). They write no
register and no status bit and cannot fail. -/

namespace Sys2Proof.Machine

open Sys2Proof

/-- `for v in [a, b)` in rising order; nothing when b ≤ a (00_scope.md R18). -/
def forRange (a b : Nat) : List Nat := List.range' a (b - a)

/-- The double loop of CLEAR_REGION (R154): rows outer, columns inner, both rising, the ends exclusive. -/
def regionPixels (xStart yStart xEnd yEnd : Nat) (color : Half) : List Pixel :=
  (forRange yStart yEnd).flatMap fun y =>
    (forRange xStart xEnd).map fun x =>
      { x := BitVec.ofNat 16 x, y := BitVec.ofNat 16 y, color := color }

/-- The loop of R154 as it stands, over all of the region, dropped pixels too. -/
def clearRegionWhole (xStart yStart xEnd yEnd color : Half) (s : State) : State :=
  drawPixels s (regionPixels xStart.toNat yStart.toNat xEnd.toNat yEnd.toNat color)

/-- The same loop less the iterations outside the logical rectangle, which R155 (a) allows: they are dropped (R202),
and there can be 65535 * 65535 of them. DEDUCED by R155 itself; log 8; an obligation states that the two agree. -/
def clearRegionClipped (xStart yStart xEnd yEnd color : Half) (s : State) : State :=
  drawPixels s
    (regionPixels xStart.toNat yStart.toNat (min xEnd.toNat s.w.toNat) (min yEnd.toNat s.h.toNat) color)

/-- SET_PIXEL (R151): one pixel write. -/
def execSetPixel (x y color : Half) (s : State) : Host.Outcome State Fault Refusal :=
  .next (drawPixels s [{ x := x, y := y, color := color }])

/-- The fill of CLEAR (R153): MemWrite(mod32(BUF_BASE + i), v) for i in [0, n), in rising order. -/
def fillBytes (s : State) (v : Byte) (n : Nat) (m : Memory) : Memory :=
  (forRange 0 n).foldl (fun m i => m.write (s.bufAddr i) v) m

/-- CLEAR (R153): every byte of the buffer becomes color[7:0], unmasked (R80). -/
def execClear (color : Half) (s : State) : Host.Outcome State Fault Refusal :=
  .next (s.setMem (fillBytes s (lowByte color) s.bufSize s.mem))

/-- CLEAR_REGION (R154, by R155 (a)). -/
def execClearRegion (xStart yStart xEnd yEnd color : Half) (s : State) : Host.Outcome State Fault Refusal :=
  .next (clearRegionClipped xStart yStart xEnd yEnd color s)

end Sys2Proof.Machine
end

