-- ==== Sys2Proof/Machine/Halftone.lean ====
section
/-! DEFINITION. halftone_dither_engine (43_halftone.md): colour expansion, anchor, SET_COLOR_BLOCK. -/

namespace Sys2Proof.Machine

open Sys2Proof

/-- `Expand(color)` (R180 to R182): [G, G, G/2, B, B, B/2, R, R, R/2]. -/
def expand (color : Half) : Vector Byte 9 :=
  #v[greenOf color, greenOf color, greenOf color / 2,
     blueOf color, blueOf color, blueOf color / 2,
     redOf color, redOf color, redOf color / 2]

/-- `HT_SNAP[r]` (00_scope.md R11). A residue modulo 3 is 0, 1 or 2. -/
def snapOffset (t : HtSnap) (r : Nat) : Int :=
  match r with
  | 0 => t.at0
  | 1 => t.at1
  | _ => t.at2

/-- The anchor's column: mod16(x + HT_SNAP[x % 3]) (R183). -/
def anchorX (t : HtSnap) (x : Half) : Half :=
  BitVec.ofInt 16 ((x.toNat : Int) + snapOffset t (x.toNat % 3))

/-- The anchor's row: mod16(y + HT_SNAP[(y + 2) % 3]), the sum y + 2 exact (R183). The residue differs from the
column's on purpose (R188). -/
def anchorY (t : HtSnap) (y : Half) : Half :=
  BitVec.ofInt 16 ((y.toNat : Int) + snapOffset t ((y.toNat + 2) % 3))

/-- Row i, column j of the block round the anchor (R184): `(mod16(cx - 1 + j), mod16(cy - 1 + i), P[3*i + j])`. -/
def blockPixel (s : State) (x y color : Half) (i j : Fin 3) : Pixel :=
  { x := anchorX s.cfg.htSnap x - 1 + BitVec.ofNat 16 j.val
    y := anchorY s.cfg.htSnap y - 1 + BitVec.ofNat 16 i.val
    color := ((expand color)[3 * i.val + j.val]).setWidth 16 }

/-- The nine pixels, rows top first, columns left first (R184, R186). -/
def blockPixels (s : State) (x y color : Half) : List Pixel :=
  ([0, 1, 2] : List (Fin 3)).flatMap fun i =>
    ([0, 1, 2] : List (Fin 3)).map fun j => blockPixel s x y color i j

/-- SET_COLOR_BLOCK (R184). -/
def execSetColorBlock (x y color : Half) (s : State) : Host.Outcome State Fault Refusal :=
  .next (drawPixels s (blockPixels s x y color))

end Sys2Proof.Machine
end

