-- ==== Sys2Proof/Syntax.lean ====
section
/-! DEFINITION. The nine commands with their operands (00_scope.md R8; 30_encoding.md R72). -/

namespace Sys2Proof

/-- One command. Operand names and their order are those of R72; `buf` is the 32-bit address F0:F1 (R73).
Operand fields a command does not use are not part of the term (R71). -/
inductive Instr where
  /-- NEW, R140. -/
  | new (buf : Addr) (width height rotation colorFlag : Half)
  /-- SELECT_BUFFER, R141. -/
  | selectBuffer (buf : Addr)
  /-- SET_ROTATION, R142. -/
  | setRotation (rotation : Half)
  /-- SET_MIRROR, R143. -/
  | setMirror (mirror : Half)
  /-- SET_BPP, R144. -/
  | setBpp (bpp : Half)
  /-- SET_PIXEL, R151. -/
  | setPixel (x y color : Half)
  /-- CLEAR, R153. -/
  | clear (color : Half)
  /-- CLEAR_REGION, R154. -/
  | clearRegion (xStart yStart xEnd yEnd color : Half)
  /-- SET_COLOR_BLOCK, R184. -/
  | setColorBlock (x y color : Half)
deriving DecidableEq, Repr

end Sys2Proof
end

