-- ==== Sys2Proof/Machine/Dispatch.lean ====
section
/-! DEFINITION. One arm per command (30_encoding.md R72). -/

namespace Sys2Proof.Machine

open Sys2Proof

def exec (i : Instr) (s : State) : Host.Outcome State Fault Refusal :=
  match i with
  | .new buf width height rotation colorFlag => Sys2Proof.Machine.execNew buf width height rotation colorFlag s
  | .selectBuffer buf => Sys2Proof.Machine.execSelectBuffer buf s
  | .setRotation rotation => Sys2Proof.Machine.execSetRotation rotation s
  | .setMirror mirror => Sys2Proof.Machine.execSetMirror mirror s
  | .setBpp bpp => Sys2Proof.Machine.execSetBpp bpp s
  | .setPixel x y color => Sys2Proof.Machine.execSetPixel x y color s
  | .clear color => Sys2Proof.Machine.execClear color s
  | .clearRegion xStart yStart xEnd yEnd color => Sys2Proof.Machine.execClearRegion xStart yStart xEnd yEnd color s
  | .setColorBlock x y color => Sys2Proof.Machine.execSetColorBlock x y color s

end Sys2Proof.Machine
end

