-- ==== Sys2Proof/WellFormed.lean ====
section
/-! DEFINITION. Checks on commands as terms. The operand types already bound every field, so every term is a command
the block executes (30_encoding.md R84: "Every value of every other operand is legal", and an illegal operand value
does "not make the command illegal"). What can be wrong with a term is one of the three validated operands. -/

namespace Sys2Proof

/-- Every term is a well-formed command (R74, R84): the widths of its operands are in their types. -/
def Instr.wellFormed : Instr → Bool
  | .new _ _ _ _ _ => true
  | .selectBuffer _ => true
  | .setRotation _ => true
  | .setMirror _ => true
  | .setBpp _ => true
  | .setPixel _ _ _ => true
  | .clear _ => true
  | .clearRegion _ _ _ _ _ => true
  | .setColorBlock _ _ _ => true

/-- The accepted rotation operands: exactly 0, 90, 180, 270 degrees (R75). -/
abbrev rotationAccepted (r : Half) : Prop := r = 0 ∨ r = 90 ∨ r = 180 ∨ r = 270

/-- The accepted mirror operands: 0, 1, 2, 3 (R76). -/
abbrev mirrorAccepted (m : Half) : Prop := m = 0 ∨ m = 1 ∨ m = 2 ∨ m = 3

/-- The accepted depth operands: exactly 1, 2, 4, 8 (R77). -/
abbrev bppAccepted (b : Half) : Prop := b = 1 ∨ b = 2 ∨ b = 4 ∨ b = 8

/-- A command whose validated operand, where it has one, is accepted (R84, R208: at most one per command). -/
def Instr.operandsAccepted : Instr → Bool
  | .new _ _ _ rotation _ => decide (rotationAccepted rotation)
  | .selectBuffer _ => true
  | .setRotation rotation => decide (rotationAccepted rotation)
  | .setMirror mirror => decide (mirrorAccepted mirror)
  | .setBpp bpp => decide (bppAccepted bpp)
  | .setPixel _ _ _ => true
  | .clear _ => true
  | .clearRegion _ _ _ _ _ => true
  | .setColorBlock _ _ _ => true

/-- A drawing command (20_memory.md R39, R159: the four that access memory). -/
def Instr.draws : Instr → Bool
  | .new _ _ _ _ _ => false
  | .selectBuffer _ => false
  | .setRotation _ => false
  | .setMirror _ => false
  | .setBpp _ => false
  | .setPixel _ _ _ => true
  | .clear _ => true
  | .clearRegion _ _ _ _ _ => true
  | .setColorBlock _ _ _ => true

end Sys2Proof
end

