-- ==== Sys2Proof/Decode.lean ====
section
/-! DEFINITION. The command word: its fields, the decoder and the encoder (30_encoding.md R70 to R74, R83).
After them the host's reading of a table word. -/

namespace Sys2Proof

/-- Why a word is no command. -/
inductive DecodeError where
  /-- OP selects no command (R83). -/
  | reservedOpcode (op : Half)
deriving DecidableEq, Repr

/-- OP, bits 111:96 (R70). -/
def CmdWord.op (w : CmdWord) : Half := w.extractLsb' 96 16
/-- F0, bits 95:80 (R70). -/
def CmdWord.f0 (w : CmdWord) : Half := w.extractLsb' 80 16
/-- F1, bits 79:64 (R70). -/
def CmdWord.f1 (w : CmdWord) : Half := w.extractLsb' 64 16
/-- F2, bits 63:48 (R70). -/
def CmdWord.f2 (w : CmdWord) : Half := w.extractLsb' 48 16
/-- F3, bits 47:32 (R70). -/
def CmdWord.f3 (w : CmdWord) : Half := w.extractLsb' 32 16
/-- F4, bits 31:16 (R70). -/
def CmdWord.f4 (w : CmdWord) : Half := w.extractLsb' 16 16
/-- F5, bits 15:0 (R70). -/
def CmdWord.f5 (w : CmdWord) : Half := w.extractLsb' 0 16

/-- The number OP:F0:F1:F2:F3:F4:F5 (R70). -/
def packCommand (op f0 f1 f2 f3 f4 f5 : Half) : CmdWord :=
  op ++ f0 ++ f1 ++ f2 ++ f3 ++ f4 ++ f5

/-- The buffer address of two fields, high half first (R73). -/
def bufOf (hi lo : Half) : Addr := hi ++ lo

/-- The high half of a buffer address, field F0 (R73). -/
def bufHi (buf : Addr) : Half := buf.extractLsb' 16 16

/-- The low half of a buffer address, field F1 (R73). -/
def bufLo (buf : Addr) : Half := buf.extractLsb' 0 16

/-- The decoder: OP alone selects the command (R71), the operands are the fields of R72, and every other OP is
reserved (R83). -/
def decode (w : CmdWord) : Except DecodeError Instr :=
  match (CmdWord.op w).toNat with
  | 0x0001 => .ok (.new (bufOf (CmdWord.f0 w) (CmdWord.f1 w)) (CmdWord.f2 w) (CmdWord.f3 w) (CmdWord.f4 w) (CmdWord.f5 w))
  | 0x0002 => .ok (.selectBuffer (bufOf (CmdWord.f0 w) (CmdWord.f1 w)))
  | 0x0003 => .ok (.setRotation (CmdWord.f0 w))
  | 0x0004 => .ok (.setMirror (CmdWord.f0 w))
  | 0x0005 => .ok (.setBpp (CmdWord.f0 w))
  | 0x0006 => .ok (.setPixel (CmdWord.f0 w) (CmdWord.f1 w) (CmdWord.f2 w))
  | 0x0007 => .ok (.clear (CmdWord.f0 w))
  | 0x0008 => .ok (.clearRegion (CmdWord.f0 w) (CmdWord.f1 w) (CmdWord.f2 w) (CmdWord.f3 w) (CmdWord.f4 w))
  | 0x0009 => .ok (.setColorBlock (CmdWord.f0 w) (CmdWord.f1 w) (CmdWord.f2 w))
  | _ => .error (.reservedOpcode (CmdWord.op w))

/-- The opcode of a command (R72). -/
def Instr.opcode : Instr → Half
  | .new _ _ _ _ _ => 0x0001
  | .selectBuffer _ => 0x0002
  | .setRotation _ => 0x0003
  | .setMirror _ => 0x0004
  | .setBpp _ => 0x0005
  | .setPixel _ _ _ => 0x0006
  | .clear _ => 0x0007
  | .clearRegion _ _ _ _ _ => 0x0008
  | .setColorBlock _ _ _ => 0x0009

/-- The encoder: the command's word, with 0 in the fields it does not use (R70, R71, R72). -/
def encode : Instr → CmdWord
  | .new buf width height rotation colorFlag =>
      packCommand 0x0001 (bufHi buf) (bufLo buf) width height rotation colorFlag
  | .selectBuffer buf => packCommand 0x0002 (bufHi buf) (bufLo buf) 0 0 0 0
  | .setRotation rotation => packCommand 0x0003 rotation 0 0 0 0 0
  | .setMirror mirror => packCommand 0x0004 mirror 0 0 0 0 0
  | .setBpp bpp => packCommand 0x0005 bpp 0 0 0 0 0
  | .setPixel x y color => packCommand 0x0006 x y color 0 0 0
  | .clear color => packCommand 0x0007 color 0 0 0 0 0
  | .clearRegion xStart yStart xEnd yEnd color => packCommand 0x0008 xStart yStart xEnd yEnd color 0
  | .setColorBlock x y color => packCommand 0x0009 x y color 0 0 0

/-- How many of the six operand fields, from F0 on, the command with this opcode uses (R72); none for a reserved
opcode, whose fields are never looked at (R208). -/
def usedFields (op : Half) : Nat :=
  match op.toNat with
  | 0x0001 => 6
  | 0x0002 => 2
  | 0x0003 => 1
  | 0x0004 => 1
  | 0x0005 => 1
  | 0x0006 => 3
  | 0x0007 => 1
  | 0x0008 => 5
  | 0x0009 => 3
  | _ => 0

/-- The operand fields of a word, F0 first. -/
def CmdWord.operands (w : CmdWord) : List Half :=
  [CmdWord.f0 w, CmdWord.f1 w, CmdWord.f2 w, CmdWord.f3 w, CmdWord.f4 w, CmdWord.f5 w]

/-- A word as an assembler writes it: a command's opcode, and 0 in every unused field (R71, R83). -/
def CmdWord.canonical (w : CmdWord) : Bool :=
  decide (1 ≤ (CmdWord.op w).toNat) && decide ((CmdWord.op w).toNat ≤ 9) &&
    ((CmdWord.operands w).drop (usedFields (CmdWord.op w))).all (fun f => f == 0)

/-- A word of spec/opcode_table.json as the host numbers it: the table gives the whole 112-bit command as ONE number
with bit 0 the least significant (R70, R71), and bits above `nbits` are 0. A longer number is no command word. -/
def decodeTableWord (nbits w : Nat) : Option Instr :=
  if nbits ≤ 112 then
    match decode (BitVec.ofNat 112 (w % 2 ^ nbits)) with
    | .ok i => some i
    | .error _ => none
  else none

end Sys2Proof
end

