-- ==== Sys2Proof/Machine/Bus.lean ====
section
/-! DEFINITION. The memory port at transaction level (10_state.md R45): the accesses a command makes, in order
(20_memory.md R61, R64; 70_reset_and_hazards.md R232). The meanings do not use it; an obligation states that
performing a command's accesses gives the memory its meaning gives. Reset in the middle of a command takes the new bytes
from it. -/

namespace Sys2Proof.Machine

open Sys2Proof

/-- One transfer on the memory port: one byte (R45, R61). -/
inductive Access where
  | read (a : Addr)
  | write (a : Addr) (v : Byte)
deriving DecidableEq, Repr

/-- The address of a transfer. -/
def Access.addr : Access → Addr
  | .read a => a
  | .write a _ => a

/-- What a transfer does to the memory: a read nothing, a write one byte (20_memory.md R52, R53). -/
def Access.perform (m : Memory) : Access → Memory
  | .read _ => m
  | .write a v => m.write a v

/-- Transfers performed one at a time, each complete before the next (R64). -/
def performAll (l : List Access) (m : Memory) : Memory := l.foldl Access.perform m

/-- The accesses of WritePixel (R61, R105, R106). -/
def writePixelAccesses (s : State) (a : Addr) (xPhys color : Half) (m : Memory) : List Access :=
  match s.bpp with
  | .b8 => [.write a (pixelColor .b8 color)]
  | .b4 => [.read a, .write a (mergeField s.cfg.packOrder .b4 xPhys color (m.read a))]
  | .b2 => [.read a, .write a (mergeField s.cfg.packOrder .b2 xPhys color (m.read a))]
  | .b1 => [.read a, .write a (mergeField s.cfg.packOrder .b1 xPhys color (m.read a))]

/-- The accesses of PixelWrite: none where it is dropped (R61, R203). -/
def pixelAccesses (s : State) (m : Memory) (p : Pixel) : List Access :=
  match pixelTarget s p.x p.y with
  | none => []
  | some (a, xPhys) => writePixelAccesses s a xPhys p.color m

/-- The accesses of a sequence of pixel writes, each on the memory the ones before it left. -/
def pixelsAccesses (s : State) : Memory → List Pixel → List Access
  | _, [] => []
  | m, p :: ps => pixelAccesses s m p ++ pixelsAccesses s (pixelWrite s m p) ps

/-- The accesses of a fill: one write a byte, no read (R61, R153). -/
def fillAccesses (s : State) (v : Byte) (n : Nat) : List Access :=
  (forRange 0 n).map fun i => .write (s.bufAddr i) v

/-- The accesses of a command, in order (R232). Configuration commands make none. -/
def commandAccesses (i : Instr) (s : State) : List Access :=
  match i with
  | .new _ _ _ _ _ => []
  | .selectBuffer _ => []
  | .setRotation _ => []
  | .setMirror _ => []
  | .setBpp _ => []
  | .setPixel x y color => pixelsAccesses s s.mem [{ x := x, y := y, color := color }]
  | .clear color => fillAccesses s (lowByte color) s.bufSize
  | .clearRegion xStart yStart xEnd yEnd color =>
      pixelsAccesses s s.mem
        (regionPixels xStart.toNat yStart.toNat (min xEnd.toNat s.w.toNat) (min yEnd.toNat s.h.toNat) color)
  | .setColorBlock x y color => pixelsAccesses s s.mem (blockPixels s x y color)

/-- The accesses of a command word; a reserved opcode makes none (60_exceptions.md R204). -/
def wordAccesses (w : CmdWord) (s : State) : List Access :=
  match decode w with
  | .ok i => commandAccesses i s
  | .error _ => []

end Sys2Proof.Machine
end

