-- ==== Sys2Proof/Machine/Port.lean ====
section
/-! DEFINITION. What the block does on each event at its ports that is not one of the nine commands: a reserved
opcode (60_exceptions.md R204), reset (70_reset_and_hazards.md R220, R221), a write by the host (R228), no event. -/

namespace Sys2Proof.Machine

open Sys2Proof

/-- A command with a reserved opcode (R83, R204): ILL_CMD is set, nothing else, and the command completes. -/
def execReserved (s : State) : Host.Outcome State Fault Refusal := .next (warnIll s)

/-- Reset between commands (R42, R220). -/
def acceptReset (s : State) : Host.Outcome State Fault Refusal := .next s.resetRegs

/-- Reset while the command `w` runs (R42, R221): the bytes already written stay written, the rest are not written, and
the registers take their reset values. Which bytes those are is open: 93_implementation_defined.md U11 has each byte of
the command's footprint either old or new, byte by byte, so the event names the addresses that have their new content,
in any mixture (log 4). The new content is what the whole command leaves there. A byte below BPP 8 that the command
writes several times is old or new too, as U11 says, and never between two of those writes (DEDUCED, log 15). An address
outside the footprint has the same byte old and new. -/
def acceptResetDuring (w : CmdWord) (landed : List Addr) (s : State) : Host.Outcome State Fault Refusal :=
  .next (s.setMem (s.mem.copyBytes (performAll (wordAccesses w s) s.mem) landed)).resetRegs

/-- A byte written by another owner of the memory between commands (20_memory.md R52, R228; log 5). -/
def acceptHostWrite (a : Addr) (v : Byte) (s : State) : Host.Outcome State Fault Refusal :=
  .next (s.setMem (s.mem.write a v))

/-- No event: between commands the block is idle and keeps all its registers (R213; log 6). -/
def idle (s : State) : Host.Outcome State Fault Refusal := .next s

end Sys2Proof.Machine
end

