-- ==== Sys2Proof/Machine/Step.lean ====
section
/-! DEFINITION. One step: the oldest pending event, whole (00_scope.md R13, R14; 10_state.md R43, R44). -/

namespace Sys2Proof.Machine

open Sys2Proof

/-- An accepted command word: the opcode is examined first (60_exceptions.md R208). -/
def runWord (w : CmdWord) (s : State) : Host.Outcome State Fault Refusal :=
  match decode w with
  | .ok i => exec i s
  | .error _ => execReserved s

/-- One step. An event leaves the list as it is taken. -/
def step (s : State) : Host.Outcome State Fault Refusal :=
  match s.inputs with
  | [] => idle s
  | .command w :: rest => runWord w (s.setInputs rest)
  | .reset :: rest => acceptReset (s.setInputs rest)
  | .resetDuring w landed :: rest => acceptResetDuring w landed (s.setInputs rest)
  | .hostWrite a v :: rest => acceptHostWrite a v (s.setInputs rest)

/-- The state in which the very next step runs the table word `w`: the word is offered on the command port before
anything else that is pending (log 1). There is no program memory (10_state.md R22, R39). -/
def State.withFetchWord (s : State) (nbits w : Nat) : State :=
  s.setInputs (.command (BitVec.ofNat 112 (w % 2 ^ nbits)) :: s.inputs)

end Sys2Proof.Machine
end

