-- ==== Sys2Proof/Machine/Assembler.lean ====
section
/-! DEFINITION. The written form of a command (30_encoding.md R86): a reader and a printer of one line. It is no part
of the block; no step uses it. What R86 leaves open (capital letters only, `0x` in small letters, spaces and tabs as
the only blanks, a number too large for its operand, a wrong number of operands) is a DESIGN CHOICE: log 13. -/

namespace Sys2Proof.Machine

open Sys2Proof

/-- Why a line is no command. -/
inductive AsmError where
  | badLine
deriving DecidableEq, Repr

/-! The words of R86, letter by letter. -/

/-- NEW -/
def asmNew : List Char := ['N', 'E', 'W']
/-- SELECT_BUFFER -/
def asmSelectBuffer : List Char := ['S', 'E', 'L', 'E', 'C', 'T', '_', 'B', 'U', 'F', 'F', 'E', 'R']
/-- SET_ROTATION -/
def asmSetRotation : List Char := ['S', 'E', 'T', '_', 'R', 'O', 'T', 'A', 'T', 'I', 'O', 'N']
/-- SET_MIRROR -/
def asmSetMirror : List Char := ['S', 'E', 'T', '_', 'M', 'I', 'R', 'R', 'O', 'R']
/-- SET_BPP -/
def asmSetBpp : List Char := ['S', 'E', 'T', '_', 'B', 'P', 'P']
/-- SET_PIXEL -/
def asmSetPixel : List Char := ['S', 'E', 'T', '_', 'P', 'I', 'X', 'E', 'L']
/-- CLEAR -/
def asmClear : List Char := ['C', 'L', 'E', 'A', 'R']
/-- CLEAR_REGION -/
def asmClearRegion : List Char := ['C', 'L', 'E', 'A', 'R', '_', 'R', 'E', 'G', 'I', 'O', 'N']
/-- SET_COLOR_BLOCK -/
def asmSetColorBlock : List Char := ['S', 'E', 'T', '_', 'C', 'O', 'L', 'O', 'R', '_', 'B', 'L', 'O', 'C', 'K']
/-- NONE -/
def asmNone : List Char := ['N', 'O', 'N', 'E']
/-- HORIZONTAL -/
def asmHorizontal : List Char := ['H', 'O', 'R', 'I', 'Z', 'O', 'N', 'T', 'A', 'L']
/-- VERTICAL -/
def asmVertical : List Char := ['V', 'E', 'R', 'T', 'I', 'C', 'A', 'L']
/-- BOTH -/
def asmBoth : List Char := ['B', 'O', 'T', 'H']

/-- A blank between words. -/
def isBlank (c : Char) : Bool := c == ' ' || c == '\t'

/-- The line up to its comment: `;` starts a comment (R86). -/
def stripComment (l : List Char) : List Char := l.takeWhile (fun c => c != ';')

/-- A word without the blanks round it. -/
def trimBlanks (l : List Char) : List Char :=
  ((l.dropWhile isBlank).reverse.dropWhile isBlank).reverse

/-- The pieces between commas (R86: operands are separated by commas). -/
def splitCommas : List Char → List (List Char)
  | [] => [[]]
  | c :: rest =>
      match c == ',', splitCommas rest with
      | true, pieces => [] :: pieces
      | false, [] => [[c]]
      | false, piece :: pieces => (c :: piece) :: pieces

/-- The hexadecimal digit of a value below 16, as the printer writes it. -/
def hexDigit (n : Nat) : Char :=
  if n < 10 then Char.ofNat (48 + n) else Char.ofNat (55 + n)

/-- The same digit with a small letter. -/
def smallHexDigit (n : Nat) : Char :=
  if n < 10 then Char.ofNat (48 + n) else Char.ofNat (87 + n)

/-- The value of a digit: the one below 16 that is written so, in either case. A decimal number then bounds its digits
by its base. -/
def digitValue (c : Char) : Option Nat :=
  (List.range 16).find? fun n => c == hexDigit n || c == smallHexDigit n

/-- Digits in a base, on from a value. -/
def parseDigits (base : Nat) : Nat → List Char → Option Nat
  | acc, [] => some acc
  | acc, c :: rest =>
      match digitValue c with
      | some d => if d < base then parseDigits base (acc * base + d) rest else none
      | none => none

/-- A decimal or `0x` hexadecimal number (R86). -/
def parseNumber : List Char → Option Nat
  | [] => none
  | '0' :: 'x' :: c :: rest => parseDigits 16 0 (c :: rest)
  | c :: rest => parseDigits 10 0 (c :: rest)

/-- A 16-bit operand. -/
def parseHalf (l : List Char) : Option Half :=
  match parseNumber l with
  | some n => if n < 2 ^ 16 then some (BitVec.ofNat 16 n) else none
  | none => none

/-- A buffer address, one 32-bit number (R86). -/
def parseAddr (l : List Char) : Option Addr :=
  match parseNumber l with
  | some n => if n < 2 ^ 32 then some (BitVec.ofNat 32 n) else none
  | none => none

/-- A mirror operand: a number or one of the four names (R86). -/
def parseMirror (l : List Char) : Option Half :=
  if l = asmNone then some 0
  else if l = asmHorizontal then some 1
  else if l = asmVertical then some 2
  else if l = asmBoth then some 3
  else parseHalf l

/-- A mnemonic and its operands, in the order of R72 (R86). -/
def assembleCommand (mnemonic : List Char) (operands : List (List Char)) : Option Instr :=
  match operands with
  | [a] =>
      if mnemonic = asmSelectBuffer then (parseAddr a).map .selectBuffer
      else if mnemonic = asmSetRotation then (parseHalf a).map .setRotation
      else if mnemonic = asmSetMirror then (parseMirror a).map .setMirror
      else if mnemonic = asmSetBpp then (parseHalf a).map .setBpp
      else if mnemonic = asmClear then (parseHalf a).map .clear
      else none
  | [a, b, c] =>
      match parseHalf a, parseHalf b, parseHalf c with
      | some x, some y, some color =>
          if mnemonic = asmSetPixel then some (.setPixel x y color)
          else if mnemonic = asmSetColorBlock then some (.setColorBlock x y color)
          else none
      | _, _, _ => none
  | [a, b, c, d, e] =>
      match parseHalf b, parseHalf c, parseHalf d, parseHalf e with
      | some y, some z, some u, some v =>
          if mnemonic = asmNew then (parseAddr a).map fun buf => .new buf y z u v
          else if mnemonic = asmClearRegion then (parseHalf a).map fun x => .clearRegion x y z u v
          else none
      | _, _, _, _ => none
  | _ => none

/-- One line: nothing (a blank line or a comment), or one command (R86). -/
def assembleLine (line : List Char) : Except AsmError (Option Instr) :=
  match trimBlanks (stripComment line) with
  | [] => .ok none
  | c :: rest =>
      match assembleCommand ((c :: rest).takeWhile (fun d => !isBlank d))
          ((splitCommas ((c :: rest).dropWhile (fun d => !isBlank d))).map trimBlanks) with
      | some i => .ok (some i)
      | none => .error .badLine

/-- `0x` and four digits. -/
def showHalf (v : Half) : List Char :=
  ['0', 'x', hexDigit (v.toNat / 4096 % 16), hexDigit (v.toNat / 256 % 16), hexDigit (v.toNat / 16 % 16),
    hexDigit (v.toNat % 16)]

/-- `0x` and eight digits. -/
def showAddr (v : Addr) : List Char :=
  showHalf (bufHi v) ++ (showHalf (bufLo v)).drop 2

/-- Operands separated by commas. -/
def joinCommas : List (List Char) → List Char
  | [] => []
  | [a] => a
  | a :: rest => a ++ [',', ' '] ++ joinCommas rest

/-- A command as one line (R86). -/
def showCommand : Instr → List Char
  | .new buf width height rotation colorFlag =>
      asmNew ++ ' ' ::
        joinCommas [showAddr buf, showHalf width, showHalf height, showHalf rotation, showHalf colorFlag]
  | .selectBuffer buf => asmSelectBuffer ++ ' ' :: showAddr buf
  | .setRotation rotation => asmSetRotation ++ ' ' :: showHalf rotation
  | .setMirror mirror => asmSetMirror ++ ' ' :: showHalf mirror
  | .setBpp bpp => asmSetBpp ++ ' ' :: showHalf bpp
  | .setPixel x y color => asmSetPixel ++ ' ' :: joinCommas [showHalf x, showHalf y, showHalf color]
  | .clear color => asmClear ++ ' ' :: showHalf color
  | .clearRegion xStart yStart xEnd yEnd color =>
      asmClearRegion ++ ' ' ::
        joinCommas [showHalf xStart, showHalf yStart, showHalf xEnd, showHalf yEnd, showHalf color]
  | .setColorBlock x y color => asmSetColorBlock ++ ' ' :: joinCommas [showHalf x, showHalf y, showHalf color]

end Sys2Proof.Machine
end

