-- ==== Sys2Proof/Safety.lean ====
section
/-! DEFINITION. What counts as a sound state and a safe run, and the few words the claims use beside the model's own. -/

namespace Sys2Proof.Machine

open Sys2Proof

/-- The invariant of the model: the memory is in its canonical form (20_memory.md R50: addresses are 32-bit), and the
halftone table is one the spec allows (00_scope.md R11, 43_halftone.md R183). The invariants of 10_state.md R35 hold
of every state by the types of its fields. -/
abbrev State.Inv (s : State) : Prop := s.mem.wf = true ∧ s.cfg.htSnap.Legal

/-- The host's duty (70_reset_and_hazards.md R224; 93_implementation_defined.md U2): every byte of the buffer range
belongs to this block. The block cannot check it, and its behaviour does not depend on it (log 9). -/
abbrev State.OwnsBuffer (owned : Addr → Prop) (s : State) : Prop := ∀ a, s.inBuffer a = true → owned a

/-- The operand that asks for a rotation, in degrees (30_encoding.md R75). -/
def Rotation.degrees : Rotation → Half
  | .deg0 => 0
  | .deg90 => 90
  | .deg180 => 180
  | .deg270 => 270

/-- The operand that asks for a mirror (R76). -/
def Mirror.operand : Mirror → Half
  | .none => 0
  | .horizontal => 1
  | .vertical => 2
  | .both => 3

/-- The operand that asks for a depth (R77). -/
def Bpp.operand : Bpp → Half
  | .b1 => 1
  | .b2 => 2
  | .b4 => 4
  | .b8 => 8

/-- A command word the block rejects as a configuration error (60_exceptions.md R201). A reserved opcode is not one:
its fields are never validated (R208). -/
def rejectedWord (w : CmdWord) : Bool :=
  match decode w with
  | .ok i => !i.operandsAccepted
  | .error _ => false

/-- A command word with a reserved opcode (R204). -/
def reservedWord (w : CmdWord) : Bool :=
  match decode w with
  | .ok _ => false
  | .error _ => true

/-- The two stages of the coordinate mapper over the integers, with no reduction modulo 2^16
(41_coordinate_mapper.md R121, R122 as the document writes them). -/
def toPhysicalExact (s : State) (x y : Int) : Int × Int :=
  let r : Int × Int :=
    match s.rot with
    | .deg0 => (x, y)
    | .deg90 => (s.wm.toNat - y - 1, x)
    | .deg180 => (s.wm.toNat - x - 1, s.hm.toNat - y - 1)
    | .deg270 => (y, s.hm.toNat - x - 1)
  match s.mir with
  | .none => r
  | .horizontal => (s.wm.toNat - r.1 - 1, r.2)
  | .vertical => (r.1, s.hm.toNat - r.2 - 1)
  | .both => (s.wm.toNat - r.1 - 1, s.hm.toNat - r.2 - 1)

/-- The rotation half a turn on. -/
def Rotation.opposite : Rotation → Rotation
  | .deg0 => .deg180
  | .deg90 => .deg270
  | .deg180 => .deg0
  | .deg270 => .deg90

/-- The mirror with both axes exchanged for their contrary (`MIR xor both`). -/
def Mirror.opposite : Mirror → Mirror
  | .none => .both
  | .horizontal => .vertical
  | .vertical => .horizontal
  | .both => .none

/-- The pixel lies in the logical rectangle (42_framebuffer_commands.md R150). -/
abbrev State.inLogical (s : State) (x y : Half) : Prop := x < s.w ∧ y < s.h

/-- The accesses of commands carried out one after the other, each in the state the ones before it left (20_memory.md
R64, R65). -/
def accessesInTurn : List Instr → State → List Access
  | [], _ => []
  | i :: rest, s =>
      commandAccesses i s ++
        match exec i s with
        | .next t => accessesInTurn rest t
        | .fault _ => []
        | .refused _ => []

/-- How many accesses one pixel write that is not dropped makes (20_memory.md R61). -/
def State.accessesPerPixel (s : State) : Nat :=
  match s.bpp with
  | .b8 => 1
  | .b4 => 2
  | .b2 => 2
  | .b1 => 2

end Sys2Proof.Machine
end

