-- ==== Sys2Proof/Certificates/Slice0/Obligations.lean ====
section
/-! DEFINITION. The statements, from the numbered rules of spec/. -/

open Sys2Proof Sys2Proof.Machine

/-! ### The command word -/

/-- Every command's word decodes to it (30_encoding.md R70, R72, R73). -/
def Obligations.DecodeOfEncodeIsTheCommand : Prop :=
  ∀ i : Instr, i.wellFormed = true → decode (encode i) = .ok i

/-- A canonical command word is the word of the command it decodes to (R70, R71, R72). -/
def Obligations.EncodeOfDecodeIsTheCanonicalWord : Prop :=
  ∀ (w : CmdWord) (i : Instr), CmdWord.canonical w = true → decode w = .ok i → encode i = w

/-- R71: decoding looks at OP only; unused fields change neither the decoding nor what the word does; match and mask;
an assembler writes 0 in unused fields. -/
def Obligations.DecodeIgnoresUnusedFields : Prop :=
  (∀ w w' : CmdWord, CmdWord.op w = CmdWord.op w' →
      (CmdWord.operands w).take (usedFields (CmdWord.op w)) =
        (CmdWord.operands w').take (usedFields (CmdWord.op w)) →
      decode w = decode w' ∧
        ∀ s : State, runWord w s = runWord w' s ∧ wordAccesses w s = wordAccesses w' s) ∧
    (∀ (w : CmdWord) (i : Instr), decode w = .ok i →
      w &&& 0xFFFF000000000000000000000000#112 = i.opcode.setWidth 112 <<< 96) ∧
    (∀ (w : CmdWord) (i : Instr), w &&& 0xFFFF000000000000000000000000#112 = i.opcode.setWidth 112 <<< 96 →
      ∃ j : Instr, decode w = .ok j ∧ j.opcode = i.opcode) ∧
    (∀ i : Instr, ((CmdWord.operands (encode i)).drop (usedFields i.opcode)).all (fun f => f == 0) = true)

/-- R83: OP = 0 and 0x000A to 0xFFFF, and they alone, select no command; such a word sets ILL_CMD, changes nothing
else, makes no access and completes. -/
def Obligations.ReservedOpcodeSetsIllCmdOnly : Prop :=
  ∀ w : CmdWord,
    (decode w = .error (.reservedOpcode (CmdWord.op w)) ↔ (CmdWord.op w = 0 ∨ 0x000A ≤ CmdWord.op w)) ∧
      ((CmdWord.op w = 0 ∨ 0x000A ≤ CmdWord.op w) → ∀ s : State,
        runWord w s = .next { s with status := s.status ||| 0b10 } ∧ wordAccesses w s = [])

/-- The worked encodings of R88. -/
def Obligations.WorkedEncodings : Prop :=
  encode (.new 0x00001000 8 8 0 0) = 0x0001000010000008000800000000 ∧
    decode 0x0001000010000008000800000000 = .ok (.new 0x00001000 8 8 0 0) ∧
    encode (.setRotation 90) = 0x0003005A00000000000000000000 ∧
    decode 0x0003005A00000000000000000000 = .ok (.setRotation 90) ∧
    encode (.setPixel 2 3 0xF0) = 0x00060002000300F0000000000000 ∧
    decode 0x00060002000300F0000000000000 = .ok (.setPixel 2 3 0xF0) ∧
    encode (.clearRegion 2 2 2 5 0) = 0x0008000200020002000500000000 ∧
    decode 0x0008000200020002000500000000 = .ok (.clearRegion 2 2 2 5 0)

/-- What the printer writes, the reader reads (R86; the printer and what R86 leaves open are the model's, log 13). -/
def Obligations.AssemblerReadsWhatItPrints : Prop :=
  ∀ i : Instr, assembleLine (showCommand i) = .ok (some i)

/-! ### Steps, the command port, reset -/

/-- A step takes the oldest pending event; when it is a command word that decodes to `i`, the step is exec of `i` in
the state with that event taken off the list (00_scope.md R13, R14; 10_state.md R44; the list itself is log 1). -/
def Obligations.StepRunsTheDecodedCommand : Prop :=
  ∀ (s : State) (w : CmdWord) (rest : List Input) (i : Instr), s.inputs = .command w :: rest →
    decode w = .ok i → i.wellFormed = true → step s = exec i { s with inputs := rest }

/-- A step on a reserved opcode takes the word off the list and sets ILL_CMD (60_exceptions.md R204). -/
def Obligations.StepOfReservedOpcode : Prop :=
  ∀ (s : State) (w : CmdWord) (rest : List Input) (op : Half), s.inputs = .command w :: rest →
    decode w = .error (.reservedOpcode op) →
    step s = .next { s with inputs := rest, status := s.status ||| 0b10 }

/-- With no event pending a step changes nothing (60_exceptions.md R213; the idle step is the model's, log 6). -/
def Obligations.IdleStepKeepsTheState : Prop :=
  ∀ s : State, s.inputs = [] → step s = .next s

/-- R220: reset, between commands or during one, takes every register and STATUS to its reset value, and so the
derived values too. -/
def Obligations.ResetTakesEveryRegisterToItsResetValue : Prop :=
  ∀ (s : State) (rest : List Input),
    (s.inputs = .reset :: rest ∨ ∃ w landed, s.inputs = .resetDuring w landed :: rest) →
    ∃ t, step s = .next t ∧ t.bufBase = 0x00000000 ∧ t.wm = 0 ∧ t.hm = 0 ∧ t.bpp = .b8 ∧ t.rot = .deg0 ∧
      t.mir = .none ∧ t.colorFlag = 0x0000 ∧ t.status = 0b00 ∧ t.cfgWarn = false ∧ t.illCmd = false ∧
      t.wb = 0 ∧ t.w = 0 ∧ t.h = 0 ∧ t.grayScale = 256 ∧ t.bufSize = 0

/-- Reset changes no byte (70_reset_and_hazards.md R221), no parameter (log 3) and no later event (log 1). A command
that reset abandons leaves each byte of memory old or new, as 93_implementation_defined.md U11 reads R221: new (what the
whole command leaves) at the addresses the event lists, old elsewhere; a byte the command does not write is unchanged;
and every such mixture is one the model can run into. The form of the event is the model's (log 4). -/
def Obligations.ResetAbandonsTheRunningCommand : Prop :=
  (∀ (s : State) (rest : List Input), s.inputs = .reset :: rest →
      step s = .next { State.reset with cfg := s.cfg, mem := s.mem, inputs := rest }) ∧
    (∀ (s : State) (w : CmdWord) (landed : List Addr) (rest : List Input), s.inputs = .resetDuring w landed :: rest →
      ∃ t u, step s = .next t ∧ t = { State.reset with cfg := s.cfg, mem := t.mem, inputs := rest } ∧
        runWord w { s with inputs := rest } = .next u ∧
        (∀ a : Addr, t.mem.read a = if a ∈ landed then u.mem.read a else s.mem.read a) ∧
        ∀ a : Addr, (∀ v : Byte, .write a v ∉ wordAccesses w { s with inputs := rest }) →
          t.mem.read a = s.mem.read a) ∧
    (∀ (s : State) (w : CmdWord) (rest : List Input), s.inputs = .resetDuring w [] :: rest →
      ∃ t, step s = .next t ∧ t.mem = s.mem) ∧
    ∀ (s : State) (w : CmdWord) (rest : List Input) (isNew : Addr → Bool),
      ∃ landed t u, step { s with inputs := .resetDuring w landed :: rest } = .next t ∧
        runWord w { s with inputs := rest } = .next u ∧
        ∀ a : Addr, t.mem.read a = if isNew a then u.mem.read a else s.mem.read a

/-- A CLEAR that reset abandons leaves each byte of the buffer filled or as it was: filled at the addresses the event
lists (93_implementation_defined.md U11 on 70_reset_and_hazards.md R221; log 4). Where those are the first `n` of the
buffer, the order in which CLEAR writes (42_framebuffer_commands.md R153, 20_memory.md R64), it has filled its first
bytes. No byte outside the buffer changes, whatever the event lists. -/
def Obligations.AbandonedClearFillsItsFirstBytes : Prop :=
  (∀ (s : State) (w : CmdWord) (color : Half) (landed : List Addr) (rest : List Input),
    s.inputs = .resetDuring w landed :: rest → decode w = .ok (.clear color) →
    ∃ t, step s = .next t ∧
      (∀ i < s.bufSize, t.mem.read (BitVec.ofNat 32 (s.bufBase.toNat + i)) =
        if BitVec.ofNat 32 (s.bufBase.toNat + i) ∈ landed then color.setWidth 8
        else s.mem.read (BitVec.ofNat 32 (s.bufBase.toNat + i))) ∧
      ∀ a : Addr, s.inBuffer a = false → t.mem.read a = s.mem.read a) ∧
  ∀ (s : State) (w : CmdWord) (color : Half) (n : Nat) (rest : List Input),
    s.inputs = .resetDuring w ((List.range n).map fun i => BitVec.ofNat 32 (s.bufBase.toNat + i)) :: rest →
    decode w = .ok (.clear color) →
    ∃ t, step s = .next t ∧
      ∀ i < s.bufSize, t.mem.read (BitVec.ofNat 32 (s.bufBase.toNat + i)) =
        if i < n then color.setWidth 8 else s.mem.read (BitVec.ofNat 32 (s.bufBase.toNat + i))

/-- The state after reset (70_reset_and_hazards.md R220), with the parameters at their defaults (00_scope.md R10,
R11). Nothing is said of the launch byte (log 2) or of the pending events (log 1). -/
def Obligations.ResetStateAsTheSpecSays : Prop :=
  State.reset.bufBase = 0 ∧ State.reset.wm = 0 ∧ State.reset.hm = 0 ∧ State.reset.bpp = .b8 ∧
    State.reset.rot = .deg0 ∧ State.reset.mir = .none ∧ State.reset.colorFlag = 0 ∧ State.reset.status = 0 ∧
    State.reset.wb = 0 ∧ State.reset.w = 0 ∧ State.reset.h = 0 ∧ State.reset.grayScale = 256 ∧
    State.reset.bufSize = 0 ∧ State.reset.cfg.packOrder = .msbFirst ∧ snapOffset State.reset.cfg.htSnap 0 = 1 ∧
    snapOffset State.reset.cfg.htSnap 1 = 0 ∧ snapOffset State.reset.cfg.htSnap 2 = -1

/-- A byte the host writes between commands is that byte from then on, and no other changes (20_memory.md R52,
70_reset_and_hazards.md R228; the event is the model's, log 5). -/
def Obligations.HostWriteBetweenCommands : Prop :=
  ∀ (s : State) (a : Addr) (v : Byte) (rest : List Input), s.inputs = .hostWrite a v :: rest →
    ∃ t, step s = .next t ∧ t = { s with inputs := rest, mem := t.mem } ∧ t.mem.read a = v ∧
      ∀ c : Addr, c ≠ a → t.mem.read c = s.mem.read c

/-! ### Configuration commands -/

/-- R140, NEW: accepted for exactly the four rotations, it writes all seven registers and nothing else; rejected, it
sets CFG_WARN and nothing else; it accesses no memory. -/
def Obligations.NewCommand : Prop :=
  ∀ (s : State) (buf : Addr) (width height colorFlag : Half),
    (∀ r : Rotation, ∃ t, exec (.new buf width height r.degrees colorFlag) s = .next t ∧
      t = { s with bufBase := buf, wm := width, hm := height, rot := r, mir := .none, bpp := .b8,
                   colorFlag := colorFlag } ∧
      t.wb = width.toNat ∧ t.bufSize = width.toNat * height.toNat ∧ t.grayScale = 256 ∧
      (r = .deg0 ∨ r = .deg180 → t.w = width ∧ t.h = height) ∧
      (r = .deg90 ∨ r = .deg270 → t.w = height ∧ t.h = width)) ∧
    (∀ rotation : Half, (∀ r : Rotation, rotation ≠ r.degrees) →
      exec (.new buf width height rotation colorFlag) s = .next { s with status := s.status ||| 0b01 }) ∧
    (∀ rotation : Half, commandAccesses (.new buf width height rotation colorFlag) s = [])

/-- R141, SELECT_BUFFER: it writes BUF_BASE and nothing else, and accesses no memory. -/
def Obligations.SelectBufferCommand : Prop :=
  ∀ (s : State) (buf : Addr),
    exec (.selectBuffer buf) s = .next { s with bufBase := buf } ∧ commandAccesses (.selectBuffer buf) s = []

/-- R142, SET_ROTATION: accepted for exactly the four rotations, it writes ROT and nothing else, so that WB and
BUF_SIZE stay and W, H follow; rejected, it sets CFG_WARN and nothing else; it accesses no memory. -/
def Obligations.SetRotationCommand : Prop :=
  ∀ s : State,
    (∀ r : Rotation, ∃ t, exec (.setRotation r.degrees) s = .next t ∧ t = { s with rot := r } ∧
      t.wb = s.wb ∧ t.bufSize = s.bufSize ∧
      (r = .deg0 ∨ r = .deg180 → t.w = s.wm ∧ t.h = s.hm) ∧
      (r = .deg90 ∨ r = .deg270 → t.w = s.hm ∧ t.h = s.wm)) ∧
    (∀ rotation : Half, (∀ r : Rotation, rotation ≠ r.degrees) →
      exec (.setRotation rotation) s = .next { s with status := s.status ||| 0b01 }) ∧
    (∀ rotation : Half, commandAccesses (.setRotation rotation) s = [])

/-- R143, SET_MIRROR: accepted for exactly 0 to 3, it writes MIR and nothing else; rejected, it sets CFG_WARN and
nothing else; it accesses no memory. -/
def Obligations.SetMirrorCommand : Prop :=
  ∀ s : State,
    (∀ m : Mirror, exec (.setMirror m.operand) s = .next { s with mir := m }) ∧
    (∀ mirror : Half, 4 ≤ mirror →
      exec (.setMirror mirror) s = .next { s with status := s.status ||| 0b01 }) ∧
    (∀ mirror : Half, commandAccesses (.setMirror mirror) s = [])

/-- R144, SET_BPP: accepted for exactly 1, 2, 4, 8, it writes BPP and nothing else, and WB, GRAY_SCALE and BUF_SIZE
follow; rejected, it sets CFG_WARN and nothing else; it accesses no memory. -/
def Obligations.SetBppCommand : Prop :=
  ∀ s : State,
    (∀ b : Bpp, ∃ t, exec (.setBpp b.operand) s = .next t ∧ t = { s with bpp := b } ∧
      t.wb = (s.wm.toNat * b.operand.toNat + 7) / 8 ∧ t.grayScale = 2 ^ b.operand.toNat ∧
      t.bufSize = (s.wm.toNat * b.operand.toNat + 7) / 8 * s.hm.toNat) ∧
    (∀ bpp : Half, (∀ b : Bpp, bpp ≠ b.operand) →
      exec (.setBpp bpp) s = .next { s with status := s.status ||| 0b01 }) ∧
    (∀ bpp : Half, commandAccesses (.setBpp bpp) s = [])

/-- R145, R201: a configuration command with an operand outside its accepted values sets CFG_WARN, changes nothing
else and completes; and no other command sets it. -/
def Obligations.RejectedConfigurationCommand : Prop :=
  ∀ (i : Instr) (s : State),
    (i.operandsAccepted = false → exec i s = .next { s with status := s.status ||| 0b01 }) ∧
    (i.operandsAccepted = true → ∃ t, exec i s = .next t ∧ t.status = s.status)

/-- 10_state.md R23: every configuration register is written only by the commands its rule names (R24 to R30), and
only by them when they are accepted. -/
def Obligations.RegistersHaveOnlyTheirWriters : Prop :=
  ∀ (i : Instr) (s : State), ∃ t, exec i s = .next t ∧
    (t.bufBase ≠ s.bufBase → ∃ buf, (∃ w h r f, i = .new buf w h r f ∧ rotationAccepted r) ∨ i = .selectBuffer buf) ∧
    (t.wm ≠ s.wm ∨ t.hm ≠ s.hm ∨ t.colorFlag ≠ s.colorFlag →
      ∃ buf w h r f, i = .new buf w h r f ∧ rotationAccepted r) ∧
    (t.bpp ≠ s.bpp → (∃ buf w h r f, i = .new buf w h r f ∧ rotationAccepted r) ∨
      ∃ b, i = .setBpp b ∧ bppAccepted b) ∧
    (t.rot ≠ s.rot → (∃ buf w h r f, i = .new buf w h r f ∧ rotationAccepted r) ∨
      ∃ r, i = .setRotation r ∧ rotationAccepted r) ∧
    (t.mir ≠ s.mir → (∃ buf w h r f, i = .new buf w h r f ∧ rotationAccepted r) ∨
      ∃ m, i = .setMirror m ∧ mirrorAccepted m)

/-! ### STATUS -/

/-- 10_state.md R36, 60_exceptions.md R210: between resets a status bit is set by exactly its event and never
cleared. That a write by the host and a step with no event are steps of the machine, and answer a next state, is the
model's choice (log 5, log 6). -/
def Obligations.StatusBitsAreSticky : Prop :=
  (∀ (s : State) (w : CmdWord) (rest : List Input), s.inputs = .command w :: rest →
    ∃ t, step s = .next t ∧ t.cfgWarn = (s.cfgWarn || rejectedWord w) ∧ t.illCmd = (s.illCmd || reservedWord w)) ∧
  (∀ (s : State) (a : Addr) (v : Byte) (rest : List Input), s.inputs = .hostWrite a v :: rest →
    ∃ t, step s = .next t ∧ t.status = s.status) ∧
  (∀ s : State, s.inputs = [] → ∃ t, step s = .next t ∧ t.status = s.status)

/-- No rule reads STATUS (10_state.md R36) or COLOR_FLAG (R30): two states that differ only there go to states that
differ only there, and make the same accesses. -/
def Obligations.StatusAndColorFlagAreNeverRead : Prop :=
  ∀ (i : Instr) (s : State) (st : BitVec 2) (f : Half), ∃ t u,
    exec i s = .next t ∧ exec i { s with status := st, colorFlag := f } = .next u ∧
    u = { t with status := u.status, colorFlag := u.colorFlag } ∧
    commandAccesses i { s with status := st, colorFlag := f } = commandAccesses i s

/-! ### Derived values -/

/-- R31, R34: WB is the least number of bytes that holds a row, it fits 16 bits; BUF_SIZE fits 32 bits; the status
outputs show both, and GRAY_SCALE (R33), without loss. -/
def Obligations.DerivedValuesFitTheirOutputs : Prop :=
  ∀ s : State,
    s.wm.toNat * s.bpp.operand.toNat ≤ 8 * s.wb ∧ 8 * s.wb < s.wm.toNat * s.bpp.operand.toNat + 8 ∧
    s.wb ≤ 65535 ∧ s.outputs.wb.toNat = s.wb ∧
    s.bufSize = s.wb * s.hm.toNat ∧ s.bufSize ≤ 65535 * 65535 ∧ s.outputs.bufSize.toNat = s.bufSize ∧
    s.outputs.grayScale.toNat = 2 ^ s.bpp.operand.toNat

/-- R32: the logical dimensions are the memory's, swapped at 90 and 270 degrees. -/
def Obligations.LogicalDimensionsFollowRotation : Prop :=
  ∀ s : State,
    (s.rot = .deg0 ∨ s.rot = .deg180 → s.w = s.wm ∧ s.h = s.hm) ∧
    (s.rot = .deg90 ∨ s.rot = .deg270 → s.w = s.hm ∧ s.h = s.wm)

/-- 20_memory.md R54: the buffer range is the addresses of the offsets below BUF_SIZE, and (R34: BUF_SIZE is below
2^32) no two offsets share an address. -/
def Obligations.BufferRangeIsTheOffsetsBelowBufSize : Prop :=
  ∀ s : State,
    (∀ a : Addr, s.inBuffer a = true ↔ ∃ i < s.bufSize, a = BitVec.ofNat 32 (s.bufBase.toNat + i)) ∧
    ∀ i < s.bufSize, ∀ j < s.bufSize,
      BitVec.ofNat 32 (s.bufBase.toNat + i) = BitVec.ofNat 32 (s.bufBase.toNat + j) → i = j

/-! ### The coordinate mapper -/

/-- R121, R122, R124: for a pixel in the logical rectangle no subtraction wraps, so the mapper gives the document's
formulas over the integers, and the result lies in the physical rectangle. -/
def Obligations.ToPhysicalIsExactAndInRange : Prop :=
  ∀ (s : State) (x y : Half), s.inLogical x y →
    ((toPhysical s x y).1.toNat : Int) = (toPhysicalExact s x.toNat y.toNat).1 ∧
    ((toPhysical s x y).2.toNat : Int) = (toPhysicalExact s x.toNat y.toNat).2 ∧
    (toPhysical s x y).1 < s.wm ∧ (toPhysical s x y).2 < s.hm

/-- R126: the mapper is one-to-one from the logical rectangle onto the physical one, with ToLogical its inverse. -/
def Obligations.ToPhysicalIsABijection : Prop :=
  ∀ s : State,
    (∀ x y : Half, s.inLogical x y →
      (toPhysical s x y).1 < s.wm ∧ (toPhysical s x y).2 < s.hm ∧
      toLogical s (toPhysical s x y).1 (toPhysical s x y).2 = (x, y)) ∧
    ∀ xp yp : Half, xp < s.wm → yp < s.hm →
      s.inLogical (toLogical s xp yp).1 (toLogical s xp yp).2 ∧
      toPhysical s (toLogical s xp yp).1 (toLogical s xp yp).2 = (xp, yp)

/-- R127: half a turn and both mirrors are the same map, on every pair of coordinates. -/
def Obligations.HalfTurnAndBothMirrorsCancel : Prop :=
  ∀ (s : State) (x y : Half),
    toPhysical { s with rot := s.rot.opposite, mir := s.mir.opposite } x y = toPhysical s x y

/-- A pixel has a place exactly when it lies in the logical rectangle: the physical check never fails (R124, R125).
The place is the byte mod32(BUF_BASE + x_phys*BPP/8 + y_phys*WB), the product divided first (R101, R102, R31). -/
def Obligations.PixelHasATargetExactlyInTheLogicalRectangle : Prop :=
  ∀ (s : State) (x y : Half),
    (s.inLogical x y → pixelTarget s x y =
      some (BitVec.ofNat 32 (s.bufBase.toNat + (toPhysical s x y).1.toNat * s.bpp.operand.toNat / 8 +
          (toPhysical s x y).2.toNat * ((s.wm.toNat * s.bpp.operand.toNat + 7) / 8)),
        (toPhysical s x y).1)) ∧
    (¬ s.inLogical x y → pixelTarget s x y = none)

/-! ### The pixel packer -/

/-- R103, R104: the selector is the position of the field's last bit, the shift is the selector's two readings, and
the masks are those of the table. -/
def Obligations.FieldPositions : Prop :=
  ∀ (b : Bpp) (x : Half), b ≠ .b8 →
    selector b x = inByteIndex b x * b.operand.toNat + (b.operand.toNat - 1) ∧
    fieldShift .msbFirst b x = inByteIndex b x * b.operand.toNat ∧
    fieldShift .msbFirst b x + (b.operand.toNat - 1) = selector b x ∧
    fieldShift .lsbFirst b x + inByteIndex b x * b.operand.toNat + b.operand.toNat = 8 ∧
    fieldShift .lsbFirst b x + selector b x = 7 ∧
    (b = .b4 → [0xF0, 0x0F][x.toNat % 2]? = some (fieldMask .msbFirst b x) ∧
      [0x0F, 0xF0][x.toNat % 2]? = some (fieldMask .lsbFirst b x)) ∧
    (b = .b2 → [0xC0, 0x30, 0x0C, 0x03][x.toNat % 4]? = some (fieldMask .msbFirst b x) ∧
      [0x03, 0x0C, 0x30, 0xC0][x.toNat % 4]? = some (fieldMask .lsbFirst b x)) ∧
    (b = .b1 →
      [0x80, 0x40, 0x20, 0x10, 0x08, 0x04, 0x02, 0x01][x.toNat % 8]? = some (fieldMask .msbFirst b x) ∧
      [0x01, 0x02, 0x04, 0x08, 0x10, 0x20, 0x40, 0x80][x.toNat % 8]? = some (fieldMask .lsbFirst b x))

/-- R107: at each depth below 8 and in each order the fields of different in-byte indices share no bit, and every bit
of the byte belongs to a field. -/
def Obligations.FieldsPartitionTheByte : Prop :=
  ∀ (o : PackOrder) (b : Bpp), b ≠ .b8 →
    (∀ x x' : Half, inByteIndex b x ≠ inByteIndex b x' → fieldMask o b x &&& fieldMask o b x' = 0) ∧
    ∀ k < 8, ∃ x : Half, x.toNat < 8 ∧ (fieldMask o b x).getLsbD k = true

/-- R105, R106, R151: SET_PIXEL of a pixel with a place stores one byte at that place (the value at each depth), and
changes no other byte and nothing else. Its accesses (R61): at depth 8 the one write, below it one read and then one
write of the same byte. -/
def Obligations.SetPixelStoresOneField : Prop :=
  ∀ (s : State) (x y color : Half) (a : Addr) (xPhys : Half), pixelTarget s x y = some (a, xPhys) →
    ∃ t, exec (.setPixel x y color) s = .next t ∧ t = { s with mem := t.mem } ∧
      (s.bpp = .b8 → t.mem.read a = color.setWidth 8 &&& 0xF0#8) ∧
      (s.bpp ≠ .b8 → t.mem.read a =
        (s.mem.read a &&& ~~~ (s.bpp.top >>> fieldShift s.cfg.packOrder s.bpp xPhys)) |||
          ((color.setWidth 8 &&& s.bpp.top) >>> fieldShift s.cfg.packOrder s.bpp xPhys)) ∧
      (∀ c : Addr, c ≠ a → t.mem.read c = s.mem.read c) ∧
      (s.bpp = .b8 → commandAccesses (.setPixel x y color) s = [.write a (t.mem.read a)]) ∧
      (s.bpp ≠ .b8 → commandAccesses (.setPixel x y color) s = [.read a, .write a (t.mem.read a)])

/-- R151, R202, R203: SET_PIXEL outside the logical rectangle changes nothing at all and makes no access. -/
def Obligations.SetPixelOutsideIsDropped : Prop :=
  ∀ (s : State) (x y color : Half), (s.w ≤ x ∨ s.h ≤ y) →
    exec (.setPixel x y color) s = .next s ∧ commandAccesses (.setPixel x y color) s = []

/-- R107, R108: after SET_PIXEL of a pixel in the logical rectangle its field reads back the colour's top bits, and
every other pixel's field is what it was. -/
def Obligations.SetPixelThenReadEveryPixel : Prop :=
  ∀ (s : State) (x y color : Half), s.inLogical x y →
    ∃ t, exec (.setPixel x y color) s = .next t ∧
      readPixel t x y = some (color.setWidth 8 &&& s.bpp.top) ∧
      ∀ x' y' : Half, (x', y') ≠ (x, y) → readPixel t x' y' = readPixel s x' y'

/-! ### CLEAR -/

/-- R153: CLEAR completes in every state, makes every byte of the buffer color[7:0] by one write each in rising order
and no read, and changes no other byte and nothing else. -/
def Obligations.ClearFillsTheBuffer : Prop :=
  ∀ (s : State) (color : Half),
    ∃ t, exec (.clear color) s = .next t ∧ t = { s with mem := t.mem } ∧
      (∀ i < s.bufSize, t.mem.read (BitVec.ofNat 32 (s.bufBase.toNat + i)) = color.setWidth 8) ∧
      (∀ a : Addr, s.inBuffer a = false → t.mem.read a = s.mem.read a) ∧
      commandAccesses (.clear color) s =
        (List.range s.bufSize).map fun i => .write (BitVec.ofNat 32 (s.bufBase.toNat + i)) (color.setWidth 8)

/-- R153: CLEAR does not read ROT, MIR or COLOR_FLAG: with any others it leaves the same memory. -/
def Obligations.ClearIgnoresRotationAndMirror : Prop :=
  ∀ (s : State) (color f : Half) (r : Rotation) (m : Mirror),
    ∃ t, exec (.clear color) s = .next t ∧
      exec (.clear color) { s with rot := r, mir := m, colorFlag := f } =
        .next { t with rot := r, mir := m, colorFlag := f }

/-- The source's property P4 as 90_conflicts.md C3 restates it: after CLEAR every pixel reads the field of
color[7:0] at its place. -/
def Obligations.ClearThenReadEveryPixel : Prop :=
  ∀ (s : State) (color x y : Half), s.inLogical x y →
    ∃ t, exec (.clear color) s = .next t ∧
      readPixel t x y =
        some (readField s.cfg.packOrder s.bpp (toPhysical s x y).1 (color.setWidth 8))

/-! ### CLEAR_REGION -/

/-- R205: a region whose end is not above its start is empty: nothing changes and nothing is accessed. -/
def Obligations.DegenerateRegionDoesNothing : Prop :=
  ∀ (s : State) (xStart yStart xEnd yEnd color : Half), (xEnd ≤ xStart ∨ yEnd ≤ yStart) →
    exec (.clearRegion xStart yStart xEnd yEnd color) s = .next s ∧
      commandAccesses (.clearRegion xStart yStart xEnd yEnd color) s = []

/-- R154, R155 (a): CLEAR_REGION, which the model runs over the part of the region inside the logical rectangle, is the
double loop of pixel writes over the whole region. -/
def Obligations.ClearRegionIsTheWholeLoop : Prop :=
  ∀ (s : State) (xStart yStart xEnd yEnd color : Half),
    exec (.clearRegion xStart yStart xEnd yEnd color) s =
      .next (drawPixels s
        ((List.range' yStart.toNat (yEnd.toNat - yStart.toNat)).flatMap fun y =>
          (List.range' xStart.toNat (xEnd.toNat - xStart.toNat)).map fun x =>
            { x := BitVec.ofNat 16 x, y := BitVec.ofNat 16 y, color := color }))

/-- R154, R156, R157: after CLEAR_REGION every pixel of the logical rectangle inside the region reads the colour's top
bits, every other pixel reads what it did, no byte outside the buffer changes, and nothing else changes. -/
def Obligations.ClearRegionThenReadEveryPixel : Prop :=
  ∀ (s : State) (xStart yStart xEnd yEnd color : Half),
    ∃ t, exec (.clearRegion xStart yStart xEnd yEnd color) s = .next t ∧ t = { s with mem := t.mem } ∧
      (∀ x y : Half, s.inLogical x y → xStart ≤ x ∧ x < xEnd ∧ yStart ≤ y ∧ y < yEnd →
        readPixel t x y = some (color.setWidth 8 &&& s.bpp.top)) ∧
      (∀ x y : Half, ¬ (xStart ≤ x ∧ x < xEnd ∧ yStart ≤ y ∧ y < yEnd) → readPixel t x y = readPixel s x y) ∧
      ∀ a : Addr, s.inBuffer a = false → t.mem.read a = s.mem.read a

/-- R155 (b), 43_halftone.md R186: pixel writes at distinct coordinates leave the same state in any order. The premise
is the model's canonical form of memory (log 2), which StepKeepsTheInvariant says every step keeps. -/
def Obligations.DrawingOrderDoesNotMatter : Prop :=
  ∀ (s : State) (ps qs : List Pixel), s.mem.wf = true → ps.Perm qs → (ps.map fun p => (p.x, p.y)).Nodup →
    drawPixels s ps = drawPixels s qs

/-! ### SET_COLOR_BLOCK -/

/-- R181, R182: the nine intensities as numbers, from the three 4-bit channels, blue above green above red. -/
def Obligations.ExpandGivesTheNineIntensities : Prop :=
  ∀ color : Half,
    (expand color).toList.map BitVec.toNat =
      [16 * (color.toNat / 16 % 16), 16 * (color.toNat / 16 % 16), 8 * (color.toNat / 16 % 16),
       16 * (color.toNat / 256 % 16), 16 * (color.toNat / 256 % 16), 8 * (color.toNat / 256 % 16),
       16 * (color.toNat % 16), 16 * (color.toNat % 16), 8 * (color.toNat % 16)]

/-- R183, R187: the anchor for any table, and with the default table the centre of the request's 3-cell, with the two
wraps at y = 0 and x = 65535. -/
def Obligations.AnchorIsTheCentreOfTheCell : Prop :=
  (∀ (t : HtSnap) (x y : Half),
    ((anchorX t x).toNat : Int) = ((x.toNat : Int) + snapOffset t (x.toNat % 3)) % 65536 ∧
    ((anchorY t y).toNat : Int) = ((y.toNat : Int) + snapOffset t ((y.toNat + 2) % 3)) % 65536) ∧
  (∀ x : Half, x.toNat < 65535 → (anchorX Config.default.htSnap x).toNat = 3 * (x.toNat / 3) + 1) ∧
  (anchorX Config.default.htSnap 65535).toNat = 0 ∧
  (∀ y : Half, 0 < y.toNat → (anchorY Config.default.htSnap y).toNat + 1 = 3 * ((y.toNat + 2) / 3)) ∧
  (anchorY Config.default.htSnap 0).toNat = 65535

/-- R184: SET_COLOR_BLOCK is the nine pixel writes, rows first. -/
def Obligations.SetColorBlockIsNinePixelWrites : Prop :=
  ∀ (s : State) (x y color : Half),
    exec (.setColorBlock x y color) s = .next (drawPixels s
      ([(0, 0), (0, 1), (0, 2), (1, 0), (1, 1), (1, 2), (2, 0), (2, 1), (2, 2)].map fun ij : Nat × Nat =>
        { x := BitVec.ofInt 16 ((anchorX s.cfg.htSnap x).toNat - 1 + ij.2)
          y := BitVec.ofInt 16 ((anchorY s.cfg.htSnap y).toNat - 1 + ij.1)
          color := ((expand color).toList.getD (3 * ij.1 + ij.2) 0).setWidth 16 }))

/-- R184, R185: after SET_COLOR_BLOCK each pixel of the 3 by 3 block that lies in the logical rectangle reads its
intensity's top bits, every other pixel reads what it did, no byte outside the buffer changes, and nothing else. It
holds for every table HT_SNAP. -/
def Obligations.SetColorBlockThenReadEveryPixel : Prop :=
  ∀ (s : State) (x y color : Half),
    ∃ t, exec (.setColorBlock x y color) s = .next t ∧ t = { s with mem := t.mem } ∧
      (∀ i j : Fin 3,
        s.inLogical (anchorX s.cfg.htSnap x - 1 + BitVec.ofNat 16 j.val)
          (anchorY s.cfg.htSnap y - 1 + BitVec.ofNat 16 i.val) →
        readPixel t (anchorX s.cfg.htSnap x - 1 + BitVec.ofNat 16 j.val)
            (anchorY s.cfg.htSnap y - 1 + BitVec.ofNat 16 i.val) =
          some ((expand color)[3 * i.val + j.val] &&& s.bpp.top)) ∧
      (∀ x' y' : Half,
        (∀ i j : Fin 3, (x', y') ≠
          (anchorX s.cfg.htSnap x - 1 + BitVec.ofNat 16 j.val, anchorY s.cfg.htSnap y - 1 + BitVec.ofNat 16 i.val)) →
        readPixel t x' y' = readPixel s x' y') ∧
      ∀ a : Addr, s.inBuffer a = false → t.mem.read a = s.mem.read a

/-- R184: with the default table two requests in the same 3 by 3 cell draw the same nine pixels. -/
def Obligations.RequestsInOneCellDrawTheSame : Prop :=
  ∀ (s : State) (x y x' y' color : Half), s.cfg.htSnap = Config.default.htSnap →
    x.toNat / 3 = x'.toNat / 3 → (y.toNat + 2) / 3 = (y'.toNat + 2) / 3 →
    exec (.setColorBlock x y color) s = exec (.setColorBlock x' y' color) s

/-! ### The whole machine -/

/-- 20_memory.md R58: every access of every command lies in the buffer range; the offset of a pixel in the physical
rectangle is below BUF_SIZE. -/
def Obligations.EveryAccessLiesInTheBuffer : Prop :=
  (∀ (i : Instr) (s : State), ∀ x ∈ commandAccesses i s,
    ∃ k < s.bufSize, x.addr = BitVec.ofNat 32 (s.bufBase.toNat + k)) ∧
  ∀ (s : State) (xp yp : Half), xp < s.wm → yp < s.hm →
    xp.toNat * s.bpp.operand.toNat / 8 + 1 ≤ s.wb ∧ s.byteOffset xp yp + 1 ≤ s.bufSize

/-- R157: the four drawing commands never fail, change no register and no status bit, and neither access nor change
memory outside the buffer range. -/
def Obligations.DrawingChangesOnlyTheBuffer : Prop :=
  ∀ (i : Instr) (s : State), i.draws = true →
    ∃ t, exec i s = .next t ∧ t = { s with mem := t.mem } ∧
      (∀ x ∈ commandAccesses i s, s.inBuffer x.addr = true) ∧
      ∀ a : Addr, s.inBuffer a = false → t.mem.read a = s.mem.read a

/-- The five configuration commands access no memory and leave every byte as it was (R140 to R145, R159). -/
def Obligations.ConfigurationNeverTouchesMemory : Prop :=
  ∀ (i : Instr) (s : State), i.draws = false →
    ∃ t, exec i s = .next t ∧ t.mem = s.mem ∧ t.cfg = s.cfg ∧ t.inputs = s.inputs ∧ commandAccesses i s = []

/-- A buffer that belongs to the block (70_reset_and_hazards.md R224) is all a command touches: no byte outside what the
block owns is accessed or changed. -/
def Obligations.OwnedBufferIsAllThatChanges : Prop :=
  ∀ (owned : Addr → Prop) (i : Instr) (s : State), s.OwnsBuffer owned →
    (∀ x ∈ commandAccesses i s, owned x.addr) ∧
    ∃ t, exec i s = .next t ∧ ∀ a : Addr, ¬ owned a → t.mem.read a = s.mem.read a

/-- R158, R206: every command completes, and so does every step: no fault, no refusal. That waiting with no event
pending is a step which completes, and no stop, is the model's choice (log 6); the other events are those of log 1. -/
def Obligations.EveryCommandCompletes : Prop :=
  (∀ (i : Instr) (s : State), ∃ t, exec i s = .next t) ∧ ∀ s : State, ∃ t, step s = .next t

/-- 10_state.md R45, 20_memory.md R61, R64: the accesses a command makes on the memory port, performed in order, give
the memory its meaning gives. -/
def Obligations.AccessesInOrderGiveTheMemory : Prop :=
  ∀ (i : Instr) (s : State), ∃ t, exec i s = .next t ∧ t.mem = performAll (commandAccesses i s) s.mem

/-- 70_reset_and_hazards.md R232: how many accesses each command makes. -/
def Obligations.AccessCounts : Prop :=
  ∀ s : State,
    (∀ i : Instr, i.draws = false → (commandAccesses i s).length = 0) ∧
    (∀ w : CmdWord, (CmdWord.op w = 0 ∨ 0x000A ≤ CmdWord.op w) → (wordAccesses w s).length = 0) ∧
    (∀ x y color : Half, (commandAccesses (.setPixel x y color) s).length =
      if s.inLogical x y then s.accessesPerPixel else 0) ∧
    (∀ color : Half, (commandAccesses (.clear color) s).length = s.bufSize) ∧
    (∀ xStart yStart xEnd yEnd color : Half,
      (commandAccesses (.clearRegion xStart yStart xEnd yEnd color) s).length =
        (min xEnd.toNat s.w.toNat - xStart.toNat) * (min yEnd.toNat s.h.toNat - yStart.toNat) *
          s.accessesPerPixel) ∧
    (∀ x y color : Half, (commandAccesses (.setColorBlock x y color) s).length =
      ((blockPixels s x y color).filter fun p => decide (s.inLogical p.x p.y)).length * s.accessesPerPixel)

/-- 70_reset_and_hazards.md R222: while the dimensions are 0, as after reset, no command accesses memory, and only an
accepted NEW changes the dimensions. -/
def Obligations.NothingIsDrawnBeforeNew : Prop :=
  ∀ (i : Instr) (s : State), s.wm = 0 → s.hm = 0 →
    commandAccesses i s = [] ∧ ∃ t, exec i s = .next t ∧ t.mem = s.mem ∧
      ((t.wm = 0 ∧ t.hm = 0) ∨ ∃ buf w h r f, i = .new buf w h r f ∧ rotationAccepted r)

/-- Every step keeps the canonical form of memory (log 2) and the allowed halftone table (00_scope.md R11). -/
def Obligations.StepKeepsTheInvariant : Prop :=
  ∀ s t : State, s.Inv → step s = .next t → t.Inv

/-- The state after reset has the invariant: its memory lists nothing and so is canonical, which is the model's choice
(log 2), and its halftone table is the default of 00_scope.md R11. -/
def Obligations.ResetHasTheInvariant : Prop := State.reset.Inv

/-- No step changes the block's parameters (00_scope.md R10 to R12) or what memory held at launch (20_memory.md R52).
That the parameters stand in the state is the model's choice (log 3), so are the launch byte (log 2) and that a step
with no event answers a next state (log 6). -/
def Obligations.StepKeepsTheParameters : Prop :=
  ∀ s : State, ∃ t, step s = .next t ∧ t.cfg = s.cfg ∧ t.mem.launch = s.mem.launch

/-! ### The order of accesses, the status outputs -/

/-- The accesses of CLEAR_REGION are those of one SET_PIXEL after another over the region, rows outer, columns inner,
both rising (R155 (b) calls it the normative order); those of SET_COLOR_BLOCK are those of nine, row 0 first, columns
left to right (43_halftone.md R184, R186). What one SET_PIXEL accesses: SetPixelStoresOneField and
SetPixelOutsideIsDropped. -/
def Obligations.PixelCommandsAccessMemoryInTheNormativeOrder : Prop :=
  (∀ (s : State) (xStart yStart xEnd yEnd color : Half),
    commandAccesses (.clearRegion xStart yStart xEnd yEnd color) s =
      accessesInTurn
        ((List.range' yStart.toNat (yEnd.toNat - yStart.toNat)).flatMap fun y =>
          (List.range' xStart.toNat (xEnd.toNat - xStart.toNat)).map fun x =>
            .setPixel (BitVec.ofNat 16 x) (BitVec.ofNat 16 y) color) s) ∧
  ∀ (s : State) (x y color : Half),
    commandAccesses (.setColorBlock x y color) s =
      accessesInTurn
        ((List.range 9).map fun k =>
          .setPixel (BitVec.ofInt 16 ((anchorX s.cfg.htSnap x).toNat - 1 + (k % 3 : Nat)))
            (BitVec.ofInt 16 ((anchorY s.cfg.htSnap y).toNat - 1 + (k / 3 : Nat)))
            (((expand color).toList.getD k 0).setWidth 16)) s

/-- 10_state.md R46: each status output shows its register or derived value; ROT as degrees / 90 (R28), MIR with bit 0
horizontal and bit 1 vertical (R29), BPP as the number of bits (R27), GRAY_SCALE as 2^BPP (R33). -/
def Obligations.StatusOutputsShowTheState : Prop :=
  ∀ s : State,
    s.outputs.bufBase = s.bufBase ∧ s.outputs.wm = s.wm ∧ s.outputs.hm = s.hm ∧
    s.outputs.colorFlag = s.colorFlag ∧ s.outputs.status = s.status ∧ s.outputs.w = s.w ∧ s.outputs.h = s.h ∧
    s.outputs.wb.toNat = (s.wm.toNat * s.bpp.operand.toNat + 7) / 8 ∧
    s.outputs.bufSize.toNat = (s.wm.toNat * s.bpp.operand.toNat + 7) / 8 * s.hm.toNat ∧
    ((s.bpp = .b1 ∧ s.outputs.bpp = 1 ∧ s.outputs.grayScale = 2) ∨
      (s.bpp = .b2 ∧ s.outputs.bpp = 2 ∧ s.outputs.grayScale = 4) ∨
      (s.bpp = .b4 ∧ s.outputs.bpp = 4 ∧ s.outputs.grayScale = 16) ∨
      (s.bpp = .b8 ∧ s.outputs.bpp = 8 ∧ s.outputs.grayScale = 256)) ∧
    ((s.rot = .deg0 ∧ s.outputs.rot = 0) ∨ (s.rot = .deg90 ∧ s.outputs.rot = 1) ∨
      (s.rot = .deg180 ∧ s.outputs.rot = 2) ∨ (s.rot = .deg270 ∧ s.outputs.rot = 3)) ∧
    ((s.mir = .none ∧ s.outputs.mir = 0b00) ∨ (s.mir = .horizontal ∧ s.outputs.mir = 0b01) ∨
      (s.mir = .vertical ∧ s.outputs.mir = 0b10) ∨ (s.mir = .both ∧ s.outputs.mir = 0b11))
end

