-- ==== Sys2Proof/Laws/Decode.lean ====
section
/-! SUPPORT. The fields of a packed command word (30_encoding.md R70), and the two halves of a buffer address (R73). -/

namespace Sys2Proof

/-- A field of sixteen bits, as a number: the word divided by the field's weight, modulo 65536. -/
theorem toNat_field (w : CmdWord) (k : Nat) : (w.extractLsb' k 16).toNat = w.toNat / 2 ^ k % 2 ^ 16 := by
  simp [BitVec.extractLsb'_toNat, Nat.shiftRight_eq_div_pow]

/-- The number OP*2^96 + F0*2^80 + ... + F5 (R70). -/
theorem packCommand_toNat (op f0 f1 f2 f3 f4 f5 : Half) :
    (packCommand op f0 f1 f2 f3 f4 f5).toNat =
      op.toNat * 2 ^ 96 + f0.toNat * 2 ^ 80 + f1.toNat * 2 ^ 64 + f2.toNat * 2 ^ 48 + f3.toNat * 2 ^ 32 +
        f4.toNat * 2 ^ 16 + f5.toNat := by
  have app : ∀ {n : Nat} (a : BitVec n) (b : Half), (a ++ b).toNat = a.toNat * 2 ^ 16 + b.toNat := by
    intro n a b
    rw [BitVec.toNat_append, ← Nat.shiftLeft_add_eq_or_of_lt b.isLt, Nat.shiftLeft_eq]
  simp only [packCommand, app]
  omega

@[simp] theorem op_packCommand (op f0 f1 f2 f3 f4 f5 : Half) :
    CmdWord.op (packCommand op f0 f1 f2 f3 f4 f5) = op := by
  apply BitVec.eq_of_toNat_eq
  rw [CmdWord.op, toNat_field, packCommand_toNat]
  omega

@[simp] theorem f0_packCommand (op f0 f1 f2 f3 f4 f5 : Half) :
    CmdWord.f0 (packCommand op f0 f1 f2 f3 f4 f5) = f0 := by
  apply BitVec.eq_of_toNat_eq
  rw [CmdWord.f0, toNat_field, packCommand_toNat]
  omega

@[simp] theorem f1_packCommand (op f0 f1 f2 f3 f4 f5 : Half) :
    CmdWord.f1 (packCommand op f0 f1 f2 f3 f4 f5) = f1 := by
  apply BitVec.eq_of_toNat_eq
  rw [CmdWord.f1, toNat_field, packCommand_toNat]
  omega

@[simp] theorem f2_packCommand (op f0 f1 f2 f3 f4 f5 : Half) :
    CmdWord.f2 (packCommand op f0 f1 f2 f3 f4 f5) = f2 := by
  apply BitVec.eq_of_toNat_eq
  rw [CmdWord.f2, toNat_field, packCommand_toNat]
  omega

@[simp] theorem f3_packCommand (op f0 f1 f2 f3 f4 f5 : Half) :
    CmdWord.f3 (packCommand op f0 f1 f2 f3 f4 f5) = f3 := by
  apply BitVec.eq_of_toNat_eq
  rw [CmdWord.f3, toNat_field, packCommand_toNat]
  omega

@[simp] theorem f4_packCommand (op f0 f1 f2 f3 f4 f5 : Half) :
    CmdWord.f4 (packCommand op f0 f1 f2 f3 f4 f5) = f4 := by
  apply BitVec.eq_of_toNat_eq
  rw [CmdWord.f4, toNat_field, packCommand_toNat]
  omega

@[simp] theorem f5_packCommand (op f0 f1 f2 f3 f4 f5 : Half) :
    CmdWord.f5 (packCommand op f0 f1 f2 f3 f4 f5) = f5 := by
  apply BitVec.eq_of_toNat_eq
  rw [CmdWord.f5, toNat_field, packCommand_toNat]
  omega

/-- A word is the packing of its own fields. -/
theorem packCommand_fields (w : CmdWord) :
    packCommand (CmdWord.op w) (CmdWord.f0 w) (CmdWord.f1 w) (CmdWord.f2 w) (CmdWord.f3 w) (CmdWord.f4 w)
      (CmdWord.f5 w) = w := by
  apply BitVec.eq_of_toNat_eq
  have hw := w.isLt
  simp only [packCommand_toNat, CmdWord.op, CmdWord.f0, CmdWord.f1, CmdWord.f2, CmdWord.f3, CmdWord.f4, CmdWord.f5,
    toNat_field]
  omega

/-- The two halves of a buffer address give it back (R73). -/
@[simp] theorem bufOf_halves (buf : Addr) : bufOf (bufHi buf) (bufLo buf) = buf := by
  apply BitVec.eq_of_toNat_eq
  have hb := buf.isLt
  rw [bufOf, BitVec.toNat_append, ← Nat.shiftLeft_add_eq_or_of_lt (bufLo buf).isLt, Nat.shiftLeft_eq]
  simp only [bufHi, bufLo, BitVec.extractLsb'_toNat, Nat.shiftRight_eq_div_pow]
  omega

@[simp] theorem bufHi_bufOf (hi lo : Half) : bufHi (bufOf hi lo) = hi := by
  apply BitVec.eq_of_toNat_eq
  simp only [bufHi, BitVec.extractLsb'_toNat, Nat.shiftRight_eq_div_pow]
  rw [bufOf, BitVec.toNat_append, ← Nat.shiftLeft_add_eq_or_of_lt lo.isLt, Nat.shiftLeft_eq]
  omega

@[simp] theorem bufLo_bufOf (hi lo : Half) : bufLo (bufOf hi lo) = lo := by
  apply BitVec.eq_of_toNat_eq
  simp only [bufLo, BitVec.extractLsb'_toNat, Nat.shiftRight_eq_div_pow]
  rw [bufOf, BitVec.toNat_append, ← Nat.shiftLeft_add_eq_or_of_lt lo.isLt, Nat.shiftLeft_eq]
  omega

end Sys2Proof
end

