-- ==== Sys2Proof/Laws/Memory.lean ====
section
/-! SUPPORT. What the memory primitives do (20_memory.md R52, R53): a read after a write, the canonical form, and that
canonical memories which read alike are equal. -/

namespace Sys2Proof.Machine

open Sys2Proof

/-! ### The list of cells -/

theorem lookupCell_eraseCell_same (l : List Host.Cell) (a : Nat) : lookupCell (eraseCell l a) a = none := by
  induction l with
  | nil => rfl
  | cons c rest ih =>
    obtain ⟨b, u⟩ := c
    by_cases h : b = a <;> simp [eraseCell, lookupCell, h, ih]

theorem lookupCell_eraseCell_other (l : List Host.Cell) {a c : Nat} (hne : c ≠ a) :
    lookupCell (eraseCell l a) c = lookupCell l c := by
  induction l with
  | nil => rfl
  | cons d rest ih =>
    obtain ⟨b, u⟩ := d
    by_cases h : b = a
    · simp [eraseCell, lookupCell, h, ih, hne.symm]
    · simp [eraseCell, lookupCell, h, ih]

theorem lookupCell_insertCell_same (l : List Host.Cell) (a : Nat) (v : Byte) :
    lookupCell (insertCell l a v) a = some v := by
  induction l with
  | nil => simp [insertCell, lookupCell]
  | cons d rest ih =>
    obtain ⟨b, u⟩ := d
    simp only [insertCell]
    split
    · simp [lookupCell]
    · split
      · simp [lookupCell]
      · next h => simp [lookupCell, Ne.symm h, ih]

theorem lookupCell_insertCell_other (l : List Host.Cell) {a c : Nat} (v : Byte) (hne : c ≠ a) :
    lookupCell (insertCell l a v) c = lookupCell l c := by
  induction l with
  | nil => simp [insertCell, lookupCell, hne.symm]
  | cons d rest ih =>
    obtain ⟨b, u⟩ := d
    simp only [insertCell]
    split
    · simp [lookupCell, hne.symm]
    · split
      · next h => subst h; simp [lookupCell, hne.symm]
      · simp [lookupCell, ih]

/-! ### Reads and writes -/

/-- A read after a write to the same address gives the value written (R52). -/
@[simp] theorem Memory.read_write_same (m : Memory) (a : Addr) (v : Byte) : (m.write a v).read a = v := by
  simp only [Memory.read, Memory.write]
  split
  · next h => simp [lookupCell_eraseCell_same, h]
  · simp [lookupCell_insertCell_same]

/-- A write changes only the addressed byte (R53). -/
theorem Memory.read_write_other (m : Memory) {a c : Addr} (v : Byte) (hne : c ≠ a) :
    (m.write a v).read c = m.read c := by
  have hn : c.toNat ≠ a.toNat := fun h => hne (BitVec.eq_of_toNat_eq h)
  simp only [Memory.read, Memory.write]
  split
  · rw [lookupCell_eraseCell_other _ hn]
  · rw [lookupCell_insertCell_other _ _ hn]

/-- A read after a write, in one equation. -/
theorem Memory.read_write (m : Memory) (a c : Addr) (v : Byte) :
    (m.write a v).read c = if c = a then v else m.read c := by
  split
  · next h => subst h; simp
  · next h => exact m.read_write_other v h

@[simp] theorem Memory.launch_write (m : Memory) (a : Addr) (v : Byte) : (m.write a v).launch = m.launch := rfl

/-! ### The canonical form -/

theorem cellsCanonical_mono {launch : Byte} {lo lo' : Nat} {l : List Host.Cell} (hle : lo' ≤ lo)
    (h : cellsCanonical launch lo l = true) : cellsCanonical launch lo' l = true := by
  cases l with
  | nil => rfl
  | cons d rest =>
    obtain ⟨b, u⟩ := d
    simp only [cellsCanonical, Bool.and_eq_true, decide_eq_true_eq] at h ⊢
    exact ⟨⟨⟨by omega, h.1.1.2⟩, h.1.2⟩, h.2⟩

theorem cellsCanonical_eraseCell {launch : Byte} {lo : Nat} {l : List Host.Cell} (a : Nat)
    (h : cellsCanonical launch lo l = true) : cellsCanonical launch lo (eraseCell l a) = true := by
  induction l generalizing lo with
  | nil => rfl
  | cons d rest ih =>
    obtain ⟨b, u⟩ := d
    simp only [cellsCanonical, Bool.and_eq_true, decide_eq_true_eq] at h
    simp only [eraseCell]
    split
    · exact ih (cellsCanonical_mono (by omega) h.2)
    · simp only [cellsCanonical, Bool.and_eq_true, decide_eq_true_eq]
      exact ⟨h.1, ih h.2⟩

theorem cellsCanonical_insertCell {launch v : Byte} {lo a : Nat} {l : List Host.Cell} (hlo : lo ≤ a)
    (ha : a < 2 ^ 32) (hv : v ≠ launch) (h : cellsCanonical launch lo l = true) :
    cellsCanonical launch lo (insertCell l a v) = true := by
  induction l generalizing lo with
  | nil => simp_all [insertCell, cellsCanonical]
  | cons d rest ih =>
    obtain ⟨b, u⟩ := d
    simp only [cellsCanonical, Bool.and_eq_true, decide_eq_true_eq] at h
    simp only [insertCell]
    split
    · simp only [cellsCanonical, Bool.and_eq_true, decide_eq_true_eq, bne_iff_ne, ne_eq]
      exact ⟨⟨⟨hlo, ha⟩, hv⟩, ⟨⟨by omega, h.1.1.2⟩, by simpa using h.1.2⟩, h.2⟩
    · split
      · next heq =>
        subst heq
        simp only [cellsCanonical, Bool.and_eq_true, decide_eq_true_eq, bne_iff_ne, ne_eq]
        exact ⟨⟨⟨hlo, ha⟩, hv⟩, h.2⟩
      · simp only [cellsCanonical, Bool.and_eq_true, decide_eq_true_eq]
        exact ⟨h.1, ih (by omega) h.2⟩

/-- A write keeps the canonical form. -/
theorem Memory.wf_write {m : Memory} (a : Addr) (v : Byte) (h : m.wf = true) : (m.write a v).wf = true := by
  simp only [Memory.wf, Memory.write] at h ⊢
  split
  · exact cellsCanonical_eraseCell _ h
  · next hv => exact cellsCanonical_insertCell (Nat.zero_le _) a.isLt hv h

/-- The memory after reset is canonical: it lists nothing. -/
theorem State.reset_mem_wf : State.reset.mem.wf = true := rfl

theorem lookupCell_none_of_canonical {launch : Byte} {lo a : Nat} {l : List Host.Cell}
    (h : cellsCanonical launch lo l = true) (ha : a < lo) : lookupCell l a = none := by
  induction l generalizing lo with
  | nil => rfl
  | cons d rest ih =>
    obtain ⟨b, u⟩ := d
    simp only [cellsCanonical, Bool.and_eq_true, decide_eq_true_eq] at h
    have hb : b ≠ a := by omega
    simp [lookupCell, hb, ih h.2 (by omega)]

/-- Canonical lists that give the same byte everywhere below 2^32 are equal. -/
theorem cells_ext {launch : Byte} {lo : Nat} {l l' : List Host.Cell} (h : cellsCanonical launch lo l = true)
    (h' : cellsCanonical launch lo l' = true)
    (hr : ∀ a < 2 ^ 32, (lookupCell l a).getD launch = (lookupCell l' a).getD launch) : l = l' := by
  induction l generalizing lo l' with
  | nil =>
    cases l' with
    | nil => rfl
    | cons d rest =>
      obtain ⟨b, u⟩ := d
      simp only [cellsCanonical, Bool.and_eq_true, decide_eq_true_eq, bne_iff_ne, ne_eq] at h'
      exact absurd (by simpa [lookupCell] using (hr b h'.1.1.2).symm) h'.1.2
  | cons c rest ih =>
    obtain ⟨a, v⟩ := c
    simp only [cellsCanonical, Bool.and_eq_true, decide_eq_true_eq, bne_iff_ne, ne_eq] at h
    cases l' with
    | nil => exact absurd (by simpa [lookupCell] using hr a h.1.1.2) h.1.2
    | cons d rest' =>
      obtain ⟨b, u⟩ := d
      simp only [cellsCanonical, Bool.and_eq_true, decide_eq_true_eq, bne_iff_ne, ne_eq] at h'
      have hab : a = b := by
        rcases Nat.lt_trichotomy a b with hlt | heq | hgt
        · have hb : b ≠ a := by omega
          have := hr a h.1.1.2
          simp [lookupCell, hb, lookupCell_none_of_canonical h'.2 (show a < b + 1 by omega)] at this
          exact absurd this h.1.2
        · exact heq
        · have ha : a ≠ b := by omega
          have := hr b h'.1.1.2
          simp [lookupCell, ha, lookupCell_none_of_canonical h.2 (show b < a + 1 by omega)] at this
          exact absurd this.symm h'.1.2
      subst hab
      have hvu : v = u := by simpa [lookupCell] using hr a h.1.1.2
      subst hvu
      have htail : rest = rest' := by
        refine ih h.2 h'.2 fun x hx => ?_
        by_cases hxa : a = x
        · subst hxa
          rw [lookupCell_none_of_canonical h.2 (Nat.lt_succ_self _),
            lookupCell_none_of_canonical h'.2 (Nat.lt_succ_self _)]
        · simpa [lookupCell, hxa] using hr x hx
      rw [htail]

/-- Canonical memories with the same launch byte that read alike at every address are equal. -/
theorem Memory.ext_read {m m' : Memory} (h : m.wf = true) (h' : m'.wf = true) (hl : m.launch = m'.launch)
    (hr : ∀ a, m.read a = m'.read a) : m = m' := by
  obtain ⟨launch, cells⟩ := m
  obtain ⟨launch', cells'⟩ := m'
  simp only at hl
  subst hl
  have : cells = cells' := by
    refine cells_ext h h' fun a ha => ?_
    have hx := hr (BitVec.ofNat 32 a)
    have hmod : a % 4294967296 = a := Nat.mod_eq_of_lt ha
    simpa [Memory.read, hmod] using hx
  rw [this]

/-- Writes to different addresses commute. -/
theorem Memory.write_comm {m : Memory} {a c : Addr} (u v : Byte) (hne : a ≠ c) (h : m.wf = true) :
    (m.write a u).write c v = (m.write c v).write a u := by
  refine Memory.ext_read (wf_write _ _ (wf_write _ _ h)) (wf_write _ _ (wf_write _ _ h)) rfl fun x => ?_
  simp only [Memory.read_write]
  by_cases hx : x = c
  · subst hx; simp [Ne.symm hne]
  · simp [hx]

/-! ### Bytes taken from another memory -/

@[simp] theorem Memory.copyBytes_nil (m new : Memory) : m.copyBytes new [] = m := rfl

/-- Each byte is the new one where its address is listed, the old one elsewhere. -/
theorem Memory.read_copyBytes (m new : Memory) (l : List Addr) (c : Addr) :
    (m.copyBytes new l).read c = if c ∈ l then new.read c else m.read c := by
  induction l generalizing m with
  | nil => simp
  | cons a l ih =>
    rw [show m.copyBytes new (a :: l) = (m.write a (new.read a)).copyBytes new l from rfl, ih, Memory.read_write]
    by_cases hl : c ∈ l
    · simp [hl]
    · by_cases ha : c = a
      · subst ha; simp
      · simp [hl, ha]

@[simp] theorem Memory.launch_copyBytes (m new : Memory) (l : List Addr) :
    (m.copyBytes new l).launch = m.launch := by
  induction l generalizing m with
  | nil => rfl
  | cons a l ih => exact ih _

theorem Memory.wf_copyBytes {m : Memory} (new : Memory) (l : List Addr) (h : m.wf = true) :
    (m.copyBytes new l).wf = true := by
  induction l generalizing m with
  | nil => exact h
  | cons a l ih => exact ih (Memory.wf_write _ _ h)

end Sys2Proof.Machine
end

