-- ==== Sys2Proof/Laws/PerInstr.lean ====
section
/-! SUPPORT. The family EncodedForm, per command: the word the encoder gives carries the command's opcode and is
canonical, that is, 0 in every field the command does not use (30_encoding.md R70, R71, R72). -/

namespace Sys2Proof.Laws.EncodedForm

open Sys2Proof

/-- The encoded word has the command's opcode and is a canonical command word. -/
def Statement (i : Instr) : Prop :=
  CmdWord.op (encode i) = i.opcode ∧ CmdWord.canonical (encode i) = true

theorem new (buf : Addr) (width height rotation colorFlag : Half) :
    Statement (.new buf width height rotation colorFlag) := by
  simp [Statement, encode, Instr.opcode, CmdWord.canonical, CmdWord.operands, usedFields]

theorem selectBuffer (buf : Addr) : Statement (.selectBuffer buf) := by
  simp [Statement, encode, Instr.opcode, CmdWord.canonical, CmdWord.operands, usedFields]

theorem setRotation (rotation : Half) : Statement (.setRotation rotation) := by
  simp [Statement, encode, Instr.opcode, CmdWord.canonical, CmdWord.operands, usedFields]

theorem setMirror (mirror : Half) : Statement (.setMirror mirror) := by
  simp [Statement, encode, Instr.opcode, CmdWord.canonical, CmdWord.operands, usedFields]

theorem setBpp (bpp : Half) : Statement (.setBpp bpp) := by
  simp [Statement, encode, Instr.opcode, CmdWord.canonical, CmdWord.operands, usedFields]

theorem setPixel (x y color : Half) : Statement (.setPixel x y color) := by
  simp [Statement, encode, Instr.opcode, CmdWord.canonical, CmdWord.operands, usedFields]

theorem clear (color : Half) : Statement (.clear color) := by
  simp [Statement, encode, Instr.opcode, CmdWord.canonical, CmdWord.operands, usedFields]

theorem clearRegion (xStart yStart xEnd yEnd color : Half) :
    Statement (.clearRegion xStart yStart xEnd yEnd color) := by
  simp [Statement, encode, Instr.opcode, CmdWord.canonical, CmdWord.operands, usedFields]

theorem setColorBlock (x y color : Half) : Statement (.setColorBlock x y color) := by
  simp [Statement, encode, Instr.opcode, CmdWord.canonical, CmdWord.operands, usedFields]

end Sys2Proof.Laws.EncodedForm
end

