-- ==== Sys2Proof/Laws/Pixel.lean ====
section
/-! SUPPORT. What the pixel write, a sequence of them and the fill do to the memory: one lemma each that says all of
it, and that they keep the canonical form, the launch byte and every byte they do not name. -/

namespace Sys2Proof.Machine

open Sys2Proof

/-- The byte a pixel write stores, from the byte that was there (R105, R106). -/
def storedByte (s : State) (xPhys color : Half) (old : Byte) : Byte :=
  match s.bpp with
  | .b8 => pixelColor .b8 color
  | .b4 => mergeField s.cfg.packOrder .b4 xPhys color old
  | .b2 => mergeField s.cfg.packOrder .b2 xPhys color old
  | .b1 => mergeField s.cfg.packOrder .b1 xPhys color old

/-- WritePixel stores one byte at its address. -/
theorem writePixel_eq (s : State) (a : Addr) (xPhys color : Half) (m : Memory) :
    writePixel s a xPhys color m = m.write a (storedByte s xPhys color (m.read a)) := by
  unfold writePixel storedByte
  cases s.bpp <;> rfl

/-- A target exists only inside both bounds, and is the byte of the physical coordinate (R150). -/
theorem pixelTarget_eq_some {s : State} {x y : Half} {a : Addr} {xPhys : Half}
    (h : pixelTarget s x y = some (a, xPhys)) :
    x < s.w ∧ y < s.h ∧ (toPhysical s x y).1 < s.wm ∧ (toPhysical s x y).2 < s.hm ∧
      xPhys = (toPhysical s x y).1 ∧ a = s.bufAddr (s.byteOffset (toPhysical s x y).1 (toPhysical s x y).2) := by
  unfold pixelTarget at h
  split at h
  · cases h
  · next h1 =>
    split at h
    · cases h
    · next h2 =>
      simp only [not_or, BitVec.not_le] at h1 h2
      simp only [Option.some.injEq, Prod.mk.injEq] at h
      exact ⟨h1.1, h1.2, h2.1, h2.2, h.2.symm, h.1.symm⟩

/-- Outside the logical bounds there is no target (R202). -/
theorem pixelTarget_eq_none {s : State} {x y : Half} (h : s.w ≤ x ∨ s.h ≤ y) : pixelTarget s x y = none := by
  simp [pixelTarget, h]

/-- PixelWrite: dropped, or one byte stored at the target (R150). -/
theorem pixelWrite_cases (s : State) (m : Memory) (p : Pixel) :
    (pixelTarget s p.x p.y = none ∧ pixelWrite s m p = m) ∨
      ∃ a xPhys, pixelTarget s p.x p.y = some (a, xPhys) ∧
        pixelWrite s m p = m.write a (storedByte s xPhys p.color (m.read a)) := by
  unfold pixelWrite
  cases h : pixelTarget s p.x p.y with
  | none => exact .inl ⟨rfl, rfl⟩
  | some t => exact .inr ⟨t.1, t.2, rfl, writePixel_eq s t.1 t.2 p.color m⟩

/-- A byte that is no pixel's target stays as it was. -/
theorem pixelWrite_read_other {s : State} {m : Memory} {p : Pixel} {c : Addr}
    (h : ∀ xPhys, pixelTarget s p.x p.y ≠ some (c, xPhys)) : (pixelWrite s m p).read c = m.read c := by
  rcases pixelWrite_cases s m p with ⟨-, hw⟩ | ⟨a, xPhys, ht, hw⟩
  · rw [hw]
  · rw [hw]
    refine Memory.read_write_other m _ fun hc => ?_
    subst hc
    exact h xPhys ht

theorem pixelWrite_wf {s : State} {m : Memory} (p : Pixel) (h : m.wf = true) : (pixelWrite s m p).wf = true := by
  rcases pixelWrite_cases s m p with ⟨-, hw⟩ | ⟨a, xPhys, -, hw⟩
  · rwa [hw]
  · rw [hw]
    exact Memory.wf_write _ _ h

theorem pixelWrite_launch (s : State) (m : Memory) (p : Pixel) : (pixelWrite s m p).launch = m.launch := by
  rcases pixelWrite_cases s m p with ⟨-, hw⟩ | ⟨a, xPhys, -, hw⟩ <;> rw [hw]
  rfl

/-! ### Sequences of pixel writes -/

theorem foldl_pixelWrite_wf (s : State) (ps : List Pixel) {m : Memory} (h : m.wf = true) :
    (ps.foldl (pixelWrite s) m).wf = true := by
  induction ps generalizing m with
  | nil => exact h
  | cons p ps ih => exact ih (pixelWrite_wf p h)

theorem foldl_pixelWrite_launch (s : State) (ps : List Pixel) (m : Memory) :
    (ps.foldl (pixelWrite s) m).launch = m.launch := by
  induction ps generalizing m with
  | nil => rfl
  | cons p ps ih => exact (ih _).trans (pixelWrite_launch s m p)

theorem foldl_pixelWrite_read_other (s : State) (ps : List Pixel) (m : Memory) {c : Addr}
    (h : ∀ p ∈ ps, ∀ xPhys, pixelTarget s p.x p.y ≠ some (c, xPhys)) :
    (ps.foldl (pixelWrite s) m).read c = m.read c := by
  induction ps generalizing m with
  | nil => rfl
  | cons p ps ih =>
    rw [List.foldl_cons, ih _ fun q hq => h q (List.mem_cons_of_mem _ hq)]
    exact pixelWrite_read_other (h p List.mem_cons_self)

/-- Drawing changes the memory and nothing else (R157). -/
theorem drawPixels_eq_with (s : State) (ps : List Pixel) :
    drawPixels s ps = { s with mem := (drawPixels s ps).mem } := rfl

@[simp] theorem drawPixels_nil (s : State) : drawPixels s [] = s := rfl

@[simp] theorem drawPixels_mem (s : State) (ps : List Pixel) :
    (drawPixels s ps).mem = ps.foldl (pixelWrite s) s.mem := rfl

/-- A pixel that is dropped may be left out. -/
theorem foldl_pixelWrite_dropped {s : State} {p : Pixel} (ps : List Pixel) (m : Memory)
    (h : pixelTarget s p.x p.y = none) :
    (p :: ps).foldl (pixelWrite s) m = ps.foldl (pixelWrite s) m := by
  simp [pixelWrite, h]

/-! ### The fill of CLEAR -/

@[simp] theorem forRange_zero (n : Nat) : forRange 0 n = List.range n := by
  simp [forRange, List.range_eq_range']

@[simp] theorem mem_forRange (a b k : Nat) : k ∈ forRange a b ↔ a ≤ k ∧ k < b := by
  simp only [forRange, List.mem_range'_1]
  omega

theorem fillBytes_zero (s : State) (v : Byte) (m : Memory) : fillBytes s v 0 m = m := rfl

theorem fillBytes_succ (s : State) (v : Byte) (n : Nat) (m : Memory) :
    fillBytes s v (n + 1) m = (fillBytes s v n m).write (s.bufAddr n) v := by
  simp [fillBytes, List.range_succ]

/-- The fill writes exactly the bytes at offsets below `n`. -/
theorem fillBytes_read (s : State) (v : Byte) (n : Nat) (m : Memory) (c : Addr) :
    ((∃ i < n, c = s.bufAddr i) ∧ (fillBytes s v n m).read c = v) ∨
      ((∀ i < n, c ≠ s.bufAddr i) ∧ (fillBytes s v n m).read c = m.read c) := by
  induction n with
  | zero => exact .inr ⟨by simp, rfl⟩
  | succ n ih =>
    rw [fillBytes_succ]
    by_cases hc : c = s.bufAddr n
    · exact .inl ⟨⟨n, by omega, hc⟩, by rw [hc, Memory.read_write_same]⟩
    · rw [Memory.read_write_other _ _ hc]
      rcases ih with ⟨⟨i, hi, he⟩, hr⟩ | ⟨hn, hr⟩
      · exact .inl ⟨⟨i, by omega, he⟩, hr⟩
      · refine .inr ⟨fun i hi => ?_, hr⟩
        rcases Nat.lt_succ_iff_lt_or_eq.mp hi with h | h
        · exact hn i h
        · rwa [h]

theorem fillBytes_wf (s : State) (v : Byte) (n : Nat) {m : Memory} (h : m.wf = true) :
    (fillBytes s v n m).wf = true := by
  induction n with
  | zero => exact h
  | succ n ih =>
    rw [fillBytes_succ]
    exact Memory.wf_write _ _ ih

theorem fillBytes_launch (s : State) (v : Byte) (n : Nat) (m : Memory) :
    (fillBytes s v n m).launch = m.launch := by
  induction n with
  | zero => rfl
  | succ n ih => rw [fillBytes_succ, Memory.launch_write, ih]

/-! ### Accesses on the memory port -/

theorem performAll_append (l l' : List Access) (m : Memory) :
    performAll (l ++ l') m = performAll l' (performAll l m) := by
  simp [performAll]

theorem performAll_wf (l : List Access) {m : Memory} (h : m.wf = true) : (performAll l m).wf = true := by
  induction l generalizing m with
  | nil => exact h
  | cons x l ih =>
    refine ih ?_
    cases x with
    | read a => exact h
    | write a v => exact Memory.wf_write _ _ h

theorem performAll_launch (l : List Access) (m : Memory) : (performAll l m).launch = m.launch := by
  induction l generalizing m with
  | nil => rfl
  | cons x l ih =>
    refine (ih _).trans ?_
    cases x <;> rfl

/-- A byte that none of the accesses writes reads as before (20_memory.md R53). -/
theorem performAll_read_unwritten (l : List Access) (m : Memory) {a : Addr} (h : ∀ v, Access.write a v ∉ l) :
    (performAll l m).read a = m.read a := by
  induction l generalizing m with
  | nil => rfl
  | cons x l ih =>
    refine (ih _ fun v hv => h v (List.mem_cons_of_mem _ hv)).trans ?_
    cases x with
    | read b => rfl
    | write b v => exact Memory.read_write_other _ _ fun he => h v (he ▸ List.mem_cons_self)

/-- A byte reads the last of the writes to it (R52). -/
theorem performAll_read_last_write (l l' : List Access) (m : Memory) {a : Addr} (v : Byte)
    (h : ∀ u, Access.write a u ∉ l') : (performAll (l ++ .write a v :: l') m).read a = v := by
  rw [performAll_append]
  exact (performAll_read_unwritten l' _ h).trans (Memory.read_write_same _ _ _)

/-- WritePixel is its accesses, performed. -/
theorem writePixel_eq_performAll (s : State) (a : Addr) (xPhys color : Half) (m : Memory) :
    writePixel s a xPhys color m = performAll (writePixelAccesses s a xPhys color m) m := by
  unfold writePixel writePixelAccesses
  cases s.bpp <;> rfl

end Sys2Proof.Machine
end

