-- ==== Sys2Proof/Laws/State.lean ====
section
/-! SUPPORT. One lemma per field per write of the state, and the derived values under the writes that leave their
inputs alone. -/

namespace Sys2Proof.Machine

open Sys2Proof

@[simp] theorem State.setMem_cfg (s : State) (m : Memory) : (s.setMem m).cfg = s.cfg := rfl
@[simp] theorem State.setMem_bufBase (s : State) (m : Memory) : (s.setMem m).bufBase = s.bufBase := rfl
@[simp] theorem State.setMem_wm (s : State) (m : Memory) : (s.setMem m).wm = s.wm := rfl
@[simp] theorem State.setMem_hm (s : State) (m : Memory) : (s.setMem m).hm = s.hm := rfl
@[simp] theorem State.setMem_bpp (s : State) (m : Memory) : (s.setMem m).bpp = s.bpp := rfl
@[simp] theorem State.setMem_rot (s : State) (m : Memory) : (s.setMem m).rot = s.rot := rfl
@[simp] theorem State.setMem_mir (s : State) (m : Memory) : (s.setMem m).mir = s.mir := rfl
@[simp] theorem State.setMem_colorFlag (s : State) (m : Memory) : (s.setMem m).colorFlag = s.colorFlag := rfl
@[simp] theorem State.setMem_status (s : State) (m : Memory) : (s.setMem m).status = s.status := rfl
@[simp] theorem State.setMem_mem (s : State) (m : Memory) : (s.setMem m).mem = m := rfl
@[simp] theorem State.setMem_inputs (s : State) (m : Memory) : (s.setMem m).inputs = s.inputs := rfl

@[simp] theorem State.setBufBase_cfg (s : State) (a : Addr) : (s.setBufBase a).cfg = s.cfg := rfl
@[simp] theorem State.setBufBase_bufBase (s : State) (a : Addr) : (s.setBufBase a).bufBase = a := rfl
@[simp] theorem State.setBufBase_wm (s : State) (a : Addr) : (s.setBufBase a).wm = s.wm := rfl
@[simp] theorem State.setBufBase_hm (s : State) (a : Addr) : (s.setBufBase a).hm = s.hm := rfl
@[simp] theorem State.setBufBase_bpp (s : State) (a : Addr) : (s.setBufBase a).bpp = s.bpp := rfl
@[simp] theorem State.setBufBase_rot (s : State) (a : Addr) : (s.setBufBase a).rot = s.rot := rfl
@[simp] theorem State.setBufBase_mir (s : State) (a : Addr) : (s.setBufBase a).mir = s.mir := rfl
@[simp] theorem State.setBufBase_colorFlag (s : State) (a : Addr) : (s.setBufBase a).colorFlag = s.colorFlag := rfl
@[simp] theorem State.setBufBase_status (s : State) (a : Addr) : (s.setBufBase a).status = s.status := rfl
@[simp] theorem State.setBufBase_mem (s : State) (a : Addr) : (s.setBufBase a).mem = s.mem := rfl
@[simp] theorem State.setBufBase_inputs (s : State) (a : Addr) : (s.setBufBase a).inputs = s.inputs := rfl

@[simp] theorem State.setRot_cfg (s : State) (r : Rotation) : (s.setRot r).cfg = s.cfg := rfl
@[simp] theorem State.setRot_bufBase (s : State) (r : Rotation) : (s.setRot r).bufBase = s.bufBase := rfl
@[simp] theorem State.setRot_wm (s : State) (r : Rotation) : (s.setRot r).wm = s.wm := rfl
@[simp] theorem State.setRot_hm (s : State) (r : Rotation) : (s.setRot r).hm = s.hm := rfl
@[simp] theorem State.setRot_bpp (s : State) (r : Rotation) : (s.setRot r).bpp = s.bpp := rfl
@[simp] theorem State.setRot_rot (s : State) (r : Rotation) : (s.setRot r).rot = r := rfl
@[simp] theorem State.setRot_mir (s : State) (r : Rotation) : (s.setRot r).mir = s.mir := rfl
@[simp] theorem State.setRot_colorFlag (s : State) (r : Rotation) : (s.setRot r).colorFlag = s.colorFlag := rfl
@[simp] theorem State.setRot_status (s : State) (r : Rotation) : (s.setRot r).status = s.status := rfl
@[simp] theorem State.setRot_mem (s : State) (r : Rotation) : (s.setRot r).mem = s.mem := rfl
@[simp] theorem State.setRot_inputs (s : State) (r : Rotation) : (s.setRot r).inputs = s.inputs := rfl

@[simp] theorem State.setMir_cfg (s : State) (m : Mirror) : (s.setMir m).cfg = s.cfg := rfl
@[simp] theorem State.setMir_bufBase (s : State) (m : Mirror) : (s.setMir m).bufBase = s.bufBase := rfl
@[simp] theorem State.setMir_wm (s : State) (m : Mirror) : (s.setMir m).wm = s.wm := rfl
@[simp] theorem State.setMir_hm (s : State) (m : Mirror) : (s.setMir m).hm = s.hm := rfl
@[simp] theorem State.setMir_bpp (s : State) (m : Mirror) : (s.setMir m).bpp = s.bpp := rfl
@[simp] theorem State.setMir_rot (s : State) (m : Mirror) : (s.setMir m).rot = s.rot := rfl
@[simp] theorem State.setMir_mir (s : State) (m : Mirror) : (s.setMir m).mir = m := rfl
@[simp] theorem State.setMir_colorFlag (s : State) (m : Mirror) : (s.setMir m).colorFlag = s.colorFlag := rfl
@[simp] theorem State.setMir_status (s : State) (m : Mirror) : (s.setMir m).status = s.status := rfl
@[simp] theorem State.setMir_mem (s : State) (m : Mirror) : (s.setMir m).mem = s.mem := rfl
@[simp] theorem State.setMir_inputs (s : State) (m : Mirror) : (s.setMir m).inputs = s.inputs := rfl

@[simp] theorem State.setBpp_cfg (s : State) (b : Bpp) : (s.setBpp b).cfg = s.cfg := rfl
@[simp] theorem State.setBpp_bufBase (s : State) (b : Bpp) : (s.setBpp b).bufBase = s.bufBase := rfl
@[simp] theorem State.setBpp_wm (s : State) (b : Bpp) : (s.setBpp b).wm = s.wm := rfl
@[simp] theorem State.setBpp_hm (s : State) (b : Bpp) : (s.setBpp b).hm = s.hm := rfl
@[simp] theorem State.setBpp_bpp (s : State) (b : Bpp) : (s.setBpp b).bpp = b := rfl
@[simp] theorem State.setBpp_rot (s : State) (b : Bpp) : (s.setBpp b).rot = s.rot := rfl
@[simp] theorem State.setBpp_mir (s : State) (b : Bpp) : (s.setBpp b).mir = s.mir := rfl
@[simp] theorem State.setBpp_colorFlag (s : State) (b : Bpp) : (s.setBpp b).colorFlag = s.colorFlag := rfl
@[simp] theorem State.setBpp_status (s : State) (b : Bpp) : (s.setBpp b).status = s.status := rfl
@[simp] theorem State.setBpp_mem (s : State) (b : Bpp) : (s.setBpp b).mem = s.mem := rfl
@[simp] theorem State.setBpp_inputs (s : State) (b : Bpp) : (s.setBpp b).inputs = s.inputs := rfl

@[simp] theorem State.setStatus_cfg (s : State) (v : BitVec 2) : (s.setStatus v).cfg = s.cfg := rfl
@[simp] theorem State.setStatus_bufBase (s : State) (v : BitVec 2) : (s.setStatus v).bufBase = s.bufBase := rfl
@[simp] theorem State.setStatus_wm (s : State) (v : BitVec 2) : (s.setStatus v).wm = s.wm := rfl
@[simp] theorem State.setStatus_hm (s : State) (v : BitVec 2) : (s.setStatus v).hm = s.hm := rfl
@[simp] theorem State.setStatus_bpp (s : State) (v : BitVec 2) : (s.setStatus v).bpp = s.bpp := rfl
@[simp] theorem State.setStatus_rot (s : State) (v : BitVec 2) : (s.setStatus v).rot = s.rot := rfl
@[simp] theorem State.setStatus_mir (s : State) (v : BitVec 2) : (s.setStatus v).mir = s.mir := rfl
@[simp] theorem State.setStatus_colorFlag (s : State) (v : BitVec 2) : (s.setStatus v).colorFlag = s.colorFlag := rfl
@[simp] theorem State.setStatus_status (s : State) (v : BitVec 2) : (s.setStatus v).status = v := rfl
@[simp] theorem State.setStatus_mem (s : State) (v : BitVec 2) : (s.setStatus v).mem = s.mem := rfl
@[simp] theorem State.setStatus_inputs (s : State) (v : BitVec 2) : (s.setStatus v).inputs = s.inputs := rfl

@[simp] theorem State.setGeometry_cfg (s : State) (buf : Addr) (width height : Half) (r : Rotation) (f : Half) : (s.setGeometry buf width height r f).cfg = s.cfg := rfl
@[simp] theorem State.setGeometry_bufBase (s : State) (buf : Addr) (width height : Half) (r : Rotation) (f : Half) : (s.setGeometry buf width height r f).bufBase = buf := rfl
@[simp] theorem State.setGeometry_wm (s : State) (buf : Addr) (width height : Half) (r : Rotation) (f : Half) : (s.setGeometry buf width height r f).wm = width := rfl
@[simp] theorem State.setGeometry_hm (s : State) (buf : Addr) (width height : Half) (r : Rotation) (f : Half) : (s.setGeometry buf width height r f).hm = height := rfl
@[simp] theorem State.setGeometry_bpp (s : State) (buf : Addr) (width height : Half) (r : Rotation) (f : Half) : (s.setGeometry buf width height r f).bpp = .b8 := rfl
@[simp] theorem State.setGeometry_rot (s : State) (buf : Addr) (width height : Half) (r : Rotation) (f : Half) : (s.setGeometry buf width height r f).rot = r := rfl
@[simp] theorem State.setGeometry_mir (s : State) (buf : Addr) (width height : Half) (r : Rotation) (f : Half) : (s.setGeometry buf width height r f).mir = .none := rfl
@[simp] theorem State.setGeometry_colorFlag (s : State) (buf : Addr) (width height : Half) (r : Rotation) (f : Half) : (s.setGeometry buf width height r f).colorFlag = f := rfl
@[simp] theorem State.setGeometry_status (s : State) (buf : Addr) (width height : Half) (r : Rotation) (f : Half) : (s.setGeometry buf width height r f).status = s.status := rfl
@[simp] theorem State.setGeometry_mem (s : State) (buf : Addr) (width height : Half) (r : Rotation) (f : Half) : (s.setGeometry buf width height r f).mem = s.mem := rfl
@[simp] theorem State.setGeometry_inputs (s : State) (buf : Addr) (width height : Half) (r : Rotation) (f : Half) : (s.setGeometry buf width height r f).inputs = s.inputs := rfl

@[simp] theorem State.setInputs_cfg (s : State) (l : List Input) : (s.setInputs l).cfg = s.cfg := rfl
@[simp] theorem State.setInputs_bufBase (s : State) (l : List Input) : (s.setInputs l).bufBase = s.bufBase := rfl
@[simp] theorem State.setInputs_wm (s : State) (l : List Input) : (s.setInputs l).wm = s.wm := rfl
@[simp] theorem State.setInputs_hm (s : State) (l : List Input) : (s.setInputs l).hm = s.hm := rfl
@[simp] theorem State.setInputs_bpp (s : State) (l : List Input) : (s.setInputs l).bpp = s.bpp := rfl
@[simp] theorem State.setInputs_rot (s : State) (l : List Input) : (s.setInputs l).rot = s.rot := rfl
@[simp] theorem State.setInputs_mir (s : State) (l : List Input) : (s.setInputs l).mir = s.mir := rfl
@[simp] theorem State.setInputs_colorFlag (s : State) (l : List Input) : (s.setInputs l).colorFlag = s.colorFlag := rfl
@[simp] theorem State.setInputs_status (s : State) (l : List Input) : (s.setInputs l).status = s.status := rfl
@[simp] theorem State.setInputs_mem (s : State) (l : List Input) : (s.setInputs l).mem = s.mem := rfl
@[simp] theorem State.setInputs_inputs (s : State) (l : List Input) : (s.setInputs l).inputs = l := rfl

@[simp] theorem State.resetRegs_cfg (s : State) : (s.resetRegs).cfg = s.cfg := rfl
@[simp] theorem State.resetRegs_bufBase (s : State) : (s.resetRegs).bufBase = 0 := rfl
@[simp] theorem State.resetRegs_wm (s : State) : (s.resetRegs).wm = 0 := rfl
@[simp] theorem State.resetRegs_hm (s : State) : (s.resetRegs).hm = 0 := rfl
@[simp] theorem State.resetRegs_bpp (s : State) : (s.resetRegs).bpp = .b8 := rfl
@[simp] theorem State.resetRegs_rot (s : State) : (s.resetRegs).rot = .deg0 := rfl
@[simp] theorem State.resetRegs_mir (s : State) : (s.resetRegs).mir = .none := rfl
@[simp] theorem State.resetRegs_colorFlag (s : State) : (s.resetRegs).colorFlag = 0 := rfl
@[simp] theorem State.resetRegs_status (s : State) : (s.resetRegs).status = 0 := rfl
@[simp] theorem State.resetRegs_mem (s : State) : (s.resetRegs).mem = s.mem := rfl
@[simp] theorem State.resetRegs_inputs (s : State) : (s.resetRegs).inputs = s.inputs := rfl

@[simp] theorem warnCfg_cfg (s : State) : (warnCfg s).cfg = s.cfg := rfl
@[simp] theorem warnCfg_bufBase (s : State) : (warnCfg s).bufBase = s.bufBase := rfl
@[simp] theorem warnCfg_wm (s : State) : (warnCfg s).wm = s.wm := rfl
@[simp] theorem warnCfg_hm (s : State) : (warnCfg s).hm = s.hm := rfl
@[simp] theorem warnCfg_bpp (s : State) : (warnCfg s).bpp = s.bpp := rfl
@[simp] theorem warnCfg_rot (s : State) : (warnCfg s).rot = s.rot := rfl
@[simp] theorem warnCfg_mir (s : State) : (warnCfg s).mir = s.mir := rfl
@[simp] theorem warnCfg_colorFlag (s : State) : (warnCfg s).colorFlag = s.colorFlag := rfl
@[simp] theorem warnCfg_status (s : State) : (warnCfg s).status = s.status ||| 0b01 := rfl
@[simp] theorem warnCfg_mem (s : State) : (warnCfg s).mem = s.mem := rfl
@[simp] theorem warnCfg_inputs (s : State) : (warnCfg s).inputs = s.inputs := rfl

@[simp] theorem warnIll_cfg (s : State) : (warnIll s).cfg = s.cfg := rfl
@[simp] theorem warnIll_bufBase (s : State) : (warnIll s).bufBase = s.bufBase := rfl
@[simp] theorem warnIll_wm (s : State) : (warnIll s).wm = s.wm := rfl
@[simp] theorem warnIll_hm (s : State) : (warnIll s).hm = s.hm := rfl
@[simp] theorem warnIll_bpp (s : State) : (warnIll s).bpp = s.bpp := rfl
@[simp] theorem warnIll_rot (s : State) : (warnIll s).rot = s.rot := rfl
@[simp] theorem warnIll_mir (s : State) : (warnIll s).mir = s.mir := rfl
@[simp] theorem warnIll_colorFlag (s : State) : (warnIll s).colorFlag = s.colorFlag := rfl
@[simp] theorem warnIll_status (s : State) : (warnIll s).status = s.status ||| 0b10 := rfl
@[simp] theorem warnIll_mem (s : State) : (warnIll s).mem = s.mem := rfl
@[simp] theorem warnIll_inputs (s : State) : (warnIll s).inputs = s.inputs := rfl

@[simp] theorem State.setMem_w (s : State) (m : Memory) : (s.setMem m).w = s.w := rfl
@[simp] theorem State.setMem_h (s : State) (m : Memory) : (s.setMem m).h = s.h := rfl
@[simp] theorem State.setMem_wb (s : State) (m : Memory) : (s.setMem m).wb = s.wb := rfl
@[simp] theorem State.setMem_bufSize (s : State) (m : Memory) : (s.setMem m).bufSize = s.bufSize := rfl
@[simp] theorem State.setMem_grayScale (s : State) (m : Memory) : (s.setMem m).grayScale = s.grayScale := rfl
@[simp] theorem State.setMem_bufAddr (s : State) (m : Memory) (i : Nat) : (s.setMem m).bufAddr i = s.bufAddr i := rfl
@[simp] theorem State.setMem_inBuffer (s : State) (m : Memory) (c : Addr) : (s.setMem m).inBuffer c = s.inBuffer c := rfl

@[simp] theorem State.setBufBase_w (s : State) (a : Addr) : (s.setBufBase a).w = s.w := rfl
@[simp] theorem State.setBufBase_h (s : State) (a : Addr) : (s.setBufBase a).h = s.h := rfl
@[simp] theorem State.setBufBase_wb (s : State) (a : Addr) : (s.setBufBase a).wb = s.wb := rfl
@[simp] theorem State.setBufBase_bufSize (s : State) (a : Addr) : (s.setBufBase a).bufSize = s.bufSize := rfl
@[simp] theorem State.setBufBase_grayScale (s : State) (a : Addr) : (s.setBufBase a).grayScale = s.grayScale := rfl

@[simp] theorem State.setMir_w (s : State) (m : Mirror) : (s.setMir m).w = s.w := rfl
@[simp] theorem State.setMir_h (s : State) (m : Mirror) : (s.setMir m).h = s.h := rfl
@[simp] theorem State.setMir_wb (s : State) (m : Mirror) : (s.setMir m).wb = s.wb := rfl
@[simp] theorem State.setMir_bufSize (s : State) (m : Mirror) : (s.setMir m).bufSize = s.bufSize := rfl
@[simp] theorem State.setMir_grayScale (s : State) (m : Mirror) : (s.setMir m).grayScale = s.grayScale := rfl
@[simp] theorem State.setMir_bufAddr (s : State) (m : Mirror) (i : Nat) : (s.setMir m).bufAddr i = s.bufAddr i := rfl
@[simp] theorem State.setMir_inBuffer (s : State) (m : Mirror) (c : Addr) : (s.setMir m).inBuffer c = s.inBuffer c := rfl

@[simp] theorem State.setStatus_w (s : State) (v : BitVec 2) : (s.setStatus v).w = s.w := rfl
@[simp] theorem State.setStatus_h (s : State) (v : BitVec 2) : (s.setStatus v).h = s.h := rfl
@[simp] theorem State.setStatus_wb (s : State) (v : BitVec 2) : (s.setStatus v).wb = s.wb := rfl
@[simp] theorem State.setStatus_bufSize (s : State) (v : BitVec 2) : (s.setStatus v).bufSize = s.bufSize := rfl
@[simp] theorem State.setStatus_grayScale (s : State) (v : BitVec 2) : (s.setStatus v).grayScale = s.grayScale := rfl
@[simp] theorem State.setStatus_bufAddr (s : State) (v : BitVec 2) (i : Nat) : (s.setStatus v).bufAddr i = s.bufAddr i := rfl
@[simp] theorem State.setStatus_inBuffer (s : State) (v : BitVec 2) (c : Addr) : (s.setStatus v).inBuffer c = s.inBuffer c := rfl

@[simp] theorem State.setInputs_w (s : State) (l : List Input) : (s.setInputs l).w = s.w := rfl
@[simp] theorem State.setInputs_h (s : State) (l : List Input) : (s.setInputs l).h = s.h := rfl
@[simp] theorem State.setInputs_wb (s : State) (l : List Input) : (s.setInputs l).wb = s.wb := rfl
@[simp] theorem State.setInputs_bufSize (s : State) (l : List Input) : (s.setInputs l).bufSize = s.bufSize := rfl
@[simp] theorem State.setInputs_grayScale (s : State) (l : List Input) : (s.setInputs l).grayScale = s.grayScale := rfl
@[simp] theorem State.setInputs_bufAddr (s : State) (l : List Input) (i : Nat) : (s.setInputs l).bufAddr i = s.bufAddr i := rfl
@[simp] theorem State.setInputs_inBuffer (s : State) (l : List Input) (c : Addr) : (s.setInputs l).inBuffer c = s.inBuffer c := rfl

/-- Rotation leaves the row length and the buffer size alone (42_framebuffer_commands.md R142). -/
@[simp] theorem State.setRot_wb (s : State) (r : Rotation) : (s.setRot r).wb = s.wb := rfl
@[simp] theorem State.setRot_bufSize (s : State) (r : Rotation) : (s.setRot r).bufSize = s.bufSize := rfl

/-- Two states are equal when every field is. -/
@[ext] theorem State.ext_fields {s t : State} (h1 : s.cfg = t.cfg) (h2 : s.bufBase = t.bufBase) (h3 : s.wm = t.wm)
    (h4 : s.hm = t.hm) (h5 : s.bpp = t.bpp) (h6 : s.rot = t.rot) (h7 : s.mir = t.mir)
    (h8 : s.colorFlag = t.colorFlag) (h9 : s.status = t.status) (h10 : s.mem = t.mem)
    (h11 : s.inputs = t.inputs) : s = t := by
  cases s
  cases t
  simp_all

/-- A state that got a new memory differs in nothing else. -/
theorem State.setMem_eq_with (s : State) (m : Memory) : s.setMem m = { s with mem := (s.setMem m).mem } := rfl

end Sys2Proof.Machine
end

