-- ==== Sys2Proof/Laws/Step.lean ====
section
/-! SUPPORT. What a command, and what a step, can do: every next state is one of the shared writes. -/

namespace Sys2Proof.Machine

open Sys2Proof

/-- The validated operands: which values each table accepts (30_encoding.md R75). -/
theorem ofDegrees_eq_none {r : Half} : Rotation.ofDegrees r = none ↔ ¬ rotationAccepted r := by
  unfold Rotation.ofDegrees rotationAccepted
  split_ifs <;> simp_all

/-- R76. -/
theorem ofOperand_mirror_eq_none {m : Half} : Mirror.ofOperand m = none ↔ ¬ mirrorAccepted m := by
  unfold Mirror.ofOperand mirrorAccepted
  split_ifs <;> simp_all

/-- R77. -/
theorem ofOperand_bpp_eq_none {b : Half} : Bpp.ofOperand b = none ↔ ¬ bppAccepted b := by
  unfold Bpp.ofOperand bppAccepted
  split_ifs <;> simp_all

/-- Every write a command can make of the state. -/
inductive CommandEffect (s : State) : State → Prop where
  | draw (ps : List Pixel) : CommandEffect s (drawPixels s ps)
  | fill (v : Byte) (n : Nat) : CommandEffect s (s.setMem (fillBytes s v n s.mem))
  | geometry (buf : Addr) (width height : Half) (r : Rotation) (f : Half) :
      CommandEffect s (s.setGeometry buf width height r f)
  | bufBase (a : Addr) : CommandEffect s (s.setBufBase a)
  | rot (r : Rotation) : CommandEffect s (s.setRot r)
  | mir (m : Mirror) : CommandEffect s (s.setMir m)
  | bpp (b : Bpp) : CommandEffect s (s.setBpp b)
  | warn : CommandEffect s (warnCfg s)

/-- A command that answers a next state made one of the shared writes. -/
theorem exec_effect {i : Instr} {s t : State} (h : exec i s = .next t) : CommandEffect s t := by
  cases i with
  | new buf width height rotation colorFlag =>
    simp only [exec, execNew, rejectConfig] at h
    split at h <;> cases h
    · exact .geometry ..
    · exact .warn
  | selectBuffer buf =>
    cases h
    exact .bufBase buf
  | setRotation rotation =>
    simp only [exec, execSetRotation, rejectConfig] at h
    split at h <;> cases h
    · exact .rot _
    · exact .warn
  | setMirror mirror =>
    simp only [exec, execSetMirror, rejectConfig] at h
    split at h <;> cases h
    · exact .mir _
    · exact .warn
  | setBpp bpp =>
    simp only [exec, execSetBpp, rejectConfig] at h
    split at h <;> cases h
    · exact .bpp _
    · exact .warn
  | setPixel x y color =>
    cases h
    exact .draw _
  | clear color =>
    cases h
    exact .fill _ _
  | clearRegion xStart yStart xEnd yEnd color =>
    cases h
    exact .draw _
  | setColorBlock x y color =>
    cases h
    exact .draw _

/-- Every write a step can make of the state. -/
inductive StepEffect (s : State) : State → Prop where
  | idle : StepEffect s s
  | command (rest : List Input) {t : State} (h : CommandEffect (s.setInputs rest) t) : StepEffect s t
  | reserved (rest : List Input) : StepEffect s (warnIll (s.setInputs rest))
  | reset (rest : List Input) : StepEffect s (s.setInputs rest).resetRegs
  | resetDuring (rest : List Input) (new : Memory) (landed : List Addr) :
      StepEffect s ((s.setInputs rest).setMem (s.mem.copyBytes new landed)).resetRegs
  | hostWrite (rest : List Input) (a : Addr) (v : Byte) :
      StepEffect s ((s.setInputs rest).setMem (s.mem.write a v))

/-- A step that answers a next state made one of these writes. -/
theorem step_effect {s t : State} (h : step s = .next t) : StepEffect s t := by
  unfold step at h
  split at h
  · cases h
    exact .idle
  · next w rest _ =>
    unfold runWord at h
    split at h
    · exact .command rest (exec_effect h)
    · cases h
      exact .reserved rest
  · cases h
    exact .reset _
  · cases h
    exact .resetDuring _ _ _
  · cases h
    exact .hostWrite _ _ _

/-! ### Commands in turn -/

@[simp] theorem accessesInTurn_nil (s : State) : accessesInTurn [] s = [] := rfl

/-- A command that answers `t` makes its accesses, and the rest go on from `t`. -/
theorem accessesInTurn_cons {i : Instr} {s t : State} (rest : List Instr) (h : exec i s = .next t) :
    accessesInTurn (i :: rest) s = commandAccesses i s ++ accessesInTurn rest t := by
  rw [accessesInTurn, h]

end Sys2Proof.Machine
end

