-- ==== Sys2Proof/Tests/Slice0.lean ====
section
/-! SUPPORT. The model's own tests. Every expected value comes from spec/ (the vector or rule is named), none from a run
of the model. After them the witnesses: for each obligation with hypotheses, concrete states and operands that meet
them. -/

namespace Sys2Proof.Tests

open Sys2Proof Sys2Proof.Machine

/-! ### Helpers -/

/-- A buffer at 0x1000 of a given shape, over memory that reads 0x00 wherever nothing is listed. -/
def buffer (wm hm : Half) (b : Bpp) (r : Rotation) (m : Mirror) (o : PackOrder) (cells : List Host.Cell) : State :=
  { State.reset with
    cfg := { Config.default with packOrder := o }
    bufBase := 0x1000
    wm := wm
    hm := hm
    bpp := b
    rot := r
    mir := m
    mem := { launch := 0x00, cells := cells } }

/-- The plain 8 by 8 buffer of the vectors, depth 8. -/
def plain : State := buffer 8 8 .b8 .deg0 .none .msbFirst []

/-- What the next state shows, where there is one. -/
def shows {α : Type} (f : State → α) : Host.Outcome State Fault Refusal → Option α
  | .next s => some (f s)
  | .fault _ => none
  | .refused _ => none

/-- The bytes of the buffer, offset 0 first. -/
def bytes (n : Nat) (s : State) : List Byte := (List.range n).map fun i => s.mem.read (s.bufAddr i)

/-! ### Checks on terms: what each check refuses, and its neighbour it accepts -/

/-- R75: 45, 360 and the code 1 are no rotations. -/
theorem test_check_new_rotation :
    [0, 90, 180, 270, 45, 360, 1].map (fun r => (Instr.new 0 1 1 r 0).operandsAccepted) =
      [true, true, true, true, false, false, false] := by decide

/-- R75. -/
theorem test_check_set_rotation :
    [270, 271, 45].map (fun r => (Instr.setRotation r).operandsAccepted) = [true, false, false] := by decide

/-- R76: 3 is the last mirror. -/
theorem test_check_set_mirror :
    [0, 3, 4, 0xFFFF].map (fun m => (Instr.setMirror m).operandsAccepted) = [true, true, false, false] := by decide

/-- R77: 0, 3 and 16 are no depths. -/
theorem test_check_set_bpp :
    [1, 2, 4, 8, 0, 3, 16].map (fun b => (Instr.setBpp b).operandsAccepted) =
      [true, true, true, true, false, false, false] := by decide

/-- R71, R83: a canonical word has an opcode from 1 to 9 and 0 in its unused fields. -/
theorem test_check_canonical_word :
    CmdWord.canonical 0x0005000400000000000000000000 = true ∧
      CmdWord.canonical 0x0005000400000000000000000001 = false ∧
      CmdWord.canonical 0x0000000000000000000000000000 = false ∧
      CmdWord.canonical 0x000A000000000000000000000000 = false := by decide

/-! ### Decoding, by words written out from R70 and R72 -/

/-- Program 3, step 1: NEW 0x3000, 5, 3, 270, 1. -/
theorem test_decode_new :
    decode 0x00010000300000050003010E0001 = .ok (.new 0x00003000 5 3 270 1) := by decide

/-- R73: the high half of the address is F0. -/
theorem test_decode_select_buffer :
    decode 0x0002123456780000000000000000 = .ok (.selectBuffer 0x12345678) := by decide

/-- Program 5, step 6: SET_ROTATION 360. -/
theorem test_decode_set_rotation : decode 0x0003016800000000000000000000 = .ok (.setRotation 360) := by decide

/-- Program 3, step 2: SET_MIRROR 1. -/
theorem test_decode_set_mirror : decode 0x0004000100000000000000000000 = .ok (.setMirror 1) := by decide

/-- Program 3, step 3, and V-CF1 "SET_BPP 4 with F1..F5 = 0xFFFF". -/
theorem test_decode_set_bpp :
    decode 0x0005000400000000000000000000 = .ok (.setBpp 4) ∧
      decode 0x00050004FFFFFFFFFFFFFFFFFFFF = .ok (.setBpp 4) := by decide

/-- Program 2, step 6: SET_PIXEL 6, 1, 0x80. -/
theorem test_decode_set_pixel : decode 0x0006000600010080000000000000 = .ok (.setPixel 6 1 0x80) := by decide

/-- Program 5, step 9: CLEAR 0xAA. -/
theorem test_decode_clear : decode 0x000700AA00000000000000000000 = .ok (.clear 0xAA) := by decide

/-- Program 3, step 5: CLEAR_REGION 0, 0, 2, 6, 0x30. -/
theorem test_decode_clear_region :
    decode 0x0008000000000002000600300000 = .ok (.clearRegion 0 0 2 6 0x30) := by decide

/-- Program 4, step 3: SET_COLOR_BLOCK 4, 4, 0x0F5A. -/
theorem test_decode_set_color_block :
    decode 0x0009000400040F5A000000000000 = .ok (.setColorBlock 4 4 0x0F5A) := by decide

/-- R83: 0, 0x000A and 0xFFFF are reserved. -/
theorem test_decode_reserved :
    decode 0 = .error (.reservedOpcode 0) ∧
      decode 0x000A002D00000000000000000000 = .error (.reservedOpcode 0x000A) ∧
      decode 0xFFFF000000000000000000000000 = .error (.reservedOpcode 0xFFFF) := by decide

/-- A table row's number is the command word itself (spec/opcode_table.json, SET_MIRROR's match and NEW's). -/
theorem test_decodeTableWord :
    decodeTableWord 112 0x0004000000000000000000000000 = some (.setMirror 0) ∧
      decodeTableWord 112 0x0001000000000000000000000000 = some (.new 0 0 0 0 0) ∧
      decodeTableWord 112 0x000A000000000000000000000000 = none := by decide

/-- R86: SET_MIRROR takes the names NONE, HORIZONTAL, VERTICAL and BOTH, `;` starts a comment. -/
theorem test_assembler :
    assembleLine (asmSetMirror ++ [' '] ++ asmBoth ++ [' ', ';', 'x']) = .ok (some (.setMirror 3)) ∧
      assembleLine [';'] = .ok none := by decide

/-! ### One step of each command -/

/-- V-CF1, first line: NEW 0x1000, 8, 8, 0, 0 as the first step after reset, by the host's fixed name. -/
theorem test_new_from_reset :
    shows (fun s => (s.bufBase, s.wm, s.hm, s.wb, s.bufSize, s.status))
        (step (State.reset.withFetchWord 112 0x0001000010000008000800000000)) =
      some (0x1000, 8, 8, 8, 64, 0) := by decide +kernel

/-- V-CF1, fourth line: NEW over WM 8, HM 4, BPP 2, MIR both. -/
theorem test_new_resets_depth_and_mirror :
    shows (fun s => ((s.wm, s.bpp, s.mir, s.rot), s.colorFlag, s.wb, s.bufSize))
        (exec (.new 0 2 2 180 0xFFFF) (buffer 8 4 .b2 .deg0 .both .msbFirst [])) =
      some ((2, .b8, .none, .deg180), 0xFFFF, 2, 4) := by decide +kernel

/-- V-CF1: SELECT_BUFFER 0x2000. -/
theorem test_select_buffer :
    shows (fun s => (s.bufBase, s.wm, s.hm)) (exec (.selectBuffer 0x2000) plain) = some (0x2000, 8, 8) := by
  decide +kernel

/-- V-CF1: SET_ROTATION 90 on WM 8, HM 4. -/
theorem test_set_rotation_90 :
    shows (fun s => (s.rot, s.w, s.h, s.wb, s.bufSize, s.status))
        (exec (.setRotation 90) (buffer 8 4 .b8 .deg0 .none .msbFirst [])) =
      some (.deg90, 4, 8, 8, 32, 0) := by decide +kernel

/-- V-CF1: SET_ROTATION 1 is rejected; the operand is degrees, not the code. -/
theorem test_set_rotation_code_rejected :
    shows (fun s => (s.rot, s.status)) (exec (.setRotation 1) (buffer 8 4 .b8 .deg90 .none .msbFirst [])) =
      some (.deg90, 1) := by decide +kernel

/-- V-CF1: SET_MIRROR 3, then 4. -/
theorem test_set_mirror :
    shows (fun s => (s.mir, s.status)) (exec (.setMirror 3) plain) = some (.both, 0) ∧
      shows (fun s => (s.mir, s.status)) (exec (.setMirror 4) (plain.setMir .both)) = some (.both, 1) := by
  decide +kernel

/-- V-CF1: WM 10, HM 2: SET_BPP 4 and SET_BPP 1. -/
theorem test_set_bpp :
    shows (fun s => (s.wb, s.bufSize, s.grayScale)) (exec (.setBpp 4) (buffer 10 2 .b8 .deg0 .none .msbFirst [])) =
        some (5, 10, 16) ∧
      shows (fun s => (s.wb, s.bufSize, s.grayScale)) (exec (.setBpp 1) (buffer 10 2 .b4 .deg0 .none .msbFirst [])) =
        some (2, 4, 2) := by decide +kernel

/-- V-CF1: SET_BPP 16 is rejected; SET_BPP 8 is accepted and CFG_WARN stays. -/
theorem test_set_bpp_rejected_and_sticky :
    shows (fun s => (s.bpp, s.status)) (exec (.setBpp 16) (buffer 10 2 .b2 .deg0 .none .msbFirst [])) =
        some (.b2, 1) ∧
      shows (fun s => (s.bpp, s.status)) (exec (.setBpp 8) ((buffer 10 2 .b2 .deg0 .none .msbFirst []).setStatus 1)) =
        some (.b8, 1) := by decide +kernel

/-- V-PX1: SET_PIXEL 2, 3, 0xF0 and SET_PIXEL 7, 7, 0xFF, each one write. -/
theorem test_set_pixel_depth8 :
    commandAccesses (.setPixel 2 3 0xF0) plain = [.write 0x101A 0xF0] ∧
      shows (fun s => s.mem.cells) (exec (.setPixel 2 3 0xF0) plain) = some [(0x101A, 0xF0)] ∧
      shows (fun s => s.mem.cells) (exec (.setPixel 7 7 0xFF) plain) = some [(0x103F, 0xF0)] := by decide +kernel

/-- V-PK4, BPP 2, both orders: WM 5, HM 2, SET_PIXEL 4, 1, 0x80 over 00 00 00 00; and program 5, step 10. -/
theorem test_set_pixel_depth2 :
    shows (bytes 4) (exec (.setPixel 4 1 0x80) (buffer 5 2 .b2 .deg0 .none .msbFirst [])) = some [0, 0, 0, 0x80] ∧
      shows (bytes 4) (exec (.setPixel 4 1 0x80) (buffer 5 2 .b2 .deg0 .none .lsbFirst [])) = some [0, 0, 0, 0x02] ∧
      shows (bytes 4) (exec (.setPixel 0 0 0xC0) (buffer 4 4 .b2 .deg180 .none .msbFirst
        [(0x1000, 0xAA), (0x1001, 0xAA), (0x1002, 0xAA), (0x1003, 0xAA)])) = some [0xAA, 0xAA, 0xAA, 0xAB] ∧
      shows (bytes 4) (exec (.setPixel 0 0 0xC0) (buffer 4 4 .b2 .deg180 .none .lsbFirst
        [(0x1000, 0xAA), (0x1001, 0xAA), (0x1002, 0xAA), (0x1003, 0xAA)])) = some [0xAA, 0xAA, 0xAA, 0xEA] := by
  decide +kernel

/-- V-CL1: CLEAR 0x1234 on WM 3, HM 2, BPP 4: four bytes 0x34; the fifth is not touched. -/
theorem test_clear_low_byte :
    shows (bytes 5) (exec (.clear 0x1234) (buffer 3 2 .b4 .deg0 .none .msbFirst [])) =
      some [0x34, 0x34, 0x34, 0x34, 0] := by decide +kernel

/-- V-CL1: CLEAR 0xFF is not masked to 0xF0, and rotation and mirror are not read. -/
theorem test_clear_unmasked :
    shows (bytes 3) (exec (.clear 0xFF) (buffer 1 2 .b8 .deg90 .both .msbFirst [])) = some [0xFF, 0xFF, 0] := by
  decide +kernel

/-- V-CR1: CLEAR_REGION 6, 6, 10, 10, 0xF0: offsets 54, 55, 62, 63. -/
theorem test_clear_region_clipped :
    shows (fun s => s.mem.cells) (exec (.clearRegion 6 6 10 10 0xF0) plain) =
      some [(0x1000 + 54, 0xF0), (0x1000 + 55, 0xF0), (0x1000 + 62, 0xF0), (0x1000 + 63, 0xF0)] := by decide +kernel

/-- V-CR2: through rotation 90 and the vertical mirror at depth 2, both orders. -/
theorem test_clear_region_transformed :
    shows (bytes 8) (exec (.clearRegion 1 2 3 5 0xFF) (buffer 8 4 .b2 .deg90 .vertical .msbFirst [])) =
        some [0x00, 0x00, 0x03, 0xF0, 0x03, 0xF0, 0x00, 0x00] ∧
      shows (bytes 8) (exec (.clearRegion 1 2 3 5 0xFF) (buffer 8 4 .b2 .deg90 .vertical .lsbFirst [])) =
        some [0x00, 0x00, 0xC0, 0x0F, 0xC0, 0x0F, 0x00, 0x00] := by decide +kernel

/-- V-HT3, first and third line. -/
theorem test_set_color_block_depth8 :
    shows (fun s => s.mem.cells) (exec (.setColorBlock 4 4 0x0F5A) plain) =
        some [(0x1000 + 35, 0x50), (0x1000 + 36, 0x50), (0x1000 + 37, 0x20), (0x1000 + 43, 0xF0), (0x1000 + 44, 0xF0),
          (0x1000 + 45, 0x70), (0x1000 + 51, 0xA0), (0x1000 + 52, 0xA0), (0x1000 + 53, 0x50)] ∧
      shows (fun s => s.mem.cells) (exec (.setColorBlock 0 0 0x0FFF) plain) =
        some [(0x1000, 0xF0), (0x1001, 0xF0), (0x1002, 0x70)] := by decide +kernel

/-- V-HT4, BPP 4, both orders. -/
theorem test_set_color_block_depth4 :
    shows (bytes 9) (exec (.setColorBlock 1 2 0x0F5A) (buffer 6 3 .b4 .deg0 .none .msbFirst [])) =
        some [0, 0, 0, 0x55, 0x20, 0, 0xFF, 0x70, 0] ∧
      shows (bytes 9) (exec (.setColorBlock 1 2 0x0F5A) (buffer 6 3 .b4 .deg0 .none .lsbFirst [])) =
        some [0, 0, 0, 0x55, 0x02, 0, 0xFF, 0x07, 0] := by decide +kernel

/-! ### Functional units and ports -/

/-- V-TR1: point A = (1,0) under all sixteen settings, in the table's order. -/
theorem test_toPhysical_all_settings :
    [Rotation.deg0, .deg90, .deg180, .deg270].map (fun r =>
        [Mirror.none, .horizontal, .vertical, .both].map fun m => toPhysical (buffer 5 3 .b8 r m .msbFirst []) 1 0) =
      [[(1, 0), (3, 0), (1, 2), (3, 2)], [(4, 1), (0, 1), (4, 1), (0, 1)], [(3, 2), (1, 2), (3, 0), (1, 0)],
        [(0, 1), (4, 1), (0, 1), (4, 1)]] := by decide +kernel

/-- V-PK5: ReadField of 0x1B at BPP 2, both orders. -/
theorem test_readField :
    [0, 1, 2, 3].map (fun x => readField .msbFirst .b2 x 0x1B) = [0x00, 0x40, 0x80, 0xC0] ∧
      [0, 1, 2, 3].map (fun x => readField .lsbFirst .b2 x 0x1B) = [0xC0, 0x80, 0x40, 0x00] := by decide

/-- V-HT1, rows 0x0F5A and 0xF123. -/
theorem test_expand :
    (expand 0x0F5A).toList = [0x50, 0x50, 0x28, 0xF0, 0xF0, 0x78, 0xA0, 0xA0, 0x50] ∧
      (expand 0xF123).toList = [0x20, 0x20, 0x10, 0x10, 0x10, 0x08, 0x30, 0x30, 0x18] := by decide

/-- V-HT2. -/
theorem test_anchors :
    [0, 1, 2, 3, 4, 5, 6, 7, 65533, 65534, 65535].map (anchorX Config.default.htSnap) =
        [1, 1, 1, 4, 4, 4, 7, 7, 65533, 65533, 0] ∧
      [0, 1, 2, 3, 4, 5, 6, 7, 65533, 65534, 65535].map (anchorY Config.default.htSnap) =
        [65535, 2, 2, 2, 5, 5, 5, 8, 65534, 65534, 65534] := by decide +kernel

/-- V-CF1: OP = 0x000A with F0 = 45 sets STATUS[1] only. -/
theorem test_reserved_opcode :
    shows (fun s => (s.status, s.rot, s.inputs)) (step { plain with inputs := [.command 0x000A002D00000000000000000000] }) =
      some (2, .deg0, []) := by decide +kernel

/-- R221, U11: reset during CLEAR when offsets 0 and 63 are written: those two bytes new, the rest old, the registers at
their reset values; an address outside the buffer is not touched. -/
theorem test_reset_during_clear :
    shows (fun s => (s.wm, s.mem.cells))
        (step { plain with inputs := [.resetDuring 0x000700FF00000000000000000000 [0x103F, 0x1000, 0x2000]] }) =
      some (0, [(0x1000, 0xFF), (0x103F, 0xFF)]) := by decide +kernel

/-- U11 at BPP 4: a byte that holds two pixels of the region is old (0x00) or new (0xFF), never 0xF0 (log 15). -/
theorem test_reset_during_region :
    shows (fun s => s.mem.cells)
        (step { buffer 2 1 .b4 .deg0 .none .msbFirst [] with
          inputs := [.resetDuring 0x0008000000000002000100F00000 [0x1000]] }) = some [(0x1000, 0xFF)] ∧
      shows (fun s => s.mem.cells)
        (step { buffer 2 1 .b4 .deg0 .none .msbFirst [] with
          inputs := [.resetDuring 0x0008000000000002000100F00000 []] }) = some [] := by decide +kernel

/-- R86: hexadecimal digits of either case, and a decimal number that has none. -/
theorem test_parseNumber :
    parseNumber ['0', 'x', 'b', 'E', '9'] = some 0xBE9 ∧ parseNumber ['2', '7', '0'] = some 270 ∧
      parseNumber ['2', 'a'] = none ∧ parseNumber ['0', 'x', 'g'] = none := by decide

/-! ### Witnesses: the hypotheses of each obligation can be met together

`step` and `exec` are run on them where a hypothesis speaks of the next state. -/

/-- A rotation operand of no rotation. -/
theorem ne_degrees {v : Half} (h : v ≠ 0 ∧ v ≠ 90 ∧ v ≠ 180 ∧ v ≠ 270) (r : Rotation) : v ≠ r.degrees := by
  cases r
  · exact h.1
  · exact h.2.1
  · exact h.2.2.1
  · exact h.2.2.2

/-- A depth operand of no depth. -/
theorem ne_depth {v : Half} (h : v ≠ 1 ∧ v ≠ 2 ∧ v ≠ 4 ∧ v ≠ 8) (b : Bpp) : v ≠ b.operand := by
  cases b
  · exact h.1
  · exact h.2.1
  · exact h.2.2.1
  · exact h.2.2.2

theorem witness_DecodeOfEncodeIsTheCommand : (Instr.new 0xFFFFFFFF 8 8 45 1).wellFormed = true := by decide

theorem witness_EncodeOfDecodeIsTheCanonicalWord :
    CmdWord.canonical 0x00010000300000050003010E0001 = true ∧
      decode 0x00010000300000050003010E0001 = .ok (.new 0x3000 5 3 270 1) := by decide

/-- Two words that differ in unused fields; a word that decodes and matches; a word that matches. -/
theorem witness_DecodeIgnoresUnusedFields :
    (CmdWord.op 0x0005000400000000000000000000 = CmdWord.op 0x00050004FFFFFFFFFFFFFFFFFFFF ∧
      (CmdWord.operands 0x0005000400000000000000000000).take (usedFields 0x0005) =
        (CmdWord.operands 0x00050004FFFFFFFFFFFFFFFFFFFF).take (usedFields 0x0005)) ∧
    decode 0x00050004FFFFFFFFFFFFFFFFFFFF = .ok (.setBpp 4) ∧
    (0x00050004FFFFFFFFFFFFFFFFFFFF#112 &&& 0xFFFF000000000000000000000000#112) =
      (Instr.setBpp 4).opcode.setWidth 112 <<< 96 := by decide

/-- OP = 0, 0x000A, 0xFFFF are reserved; their neighbours 1 and 9 are not. -/
theorem witness_ReservedOpcodeSetsIllCmdOnly :
    (CmdWord.op 0x0000000100000000000000000000 = 0 ∧ 0x000A ≤ CmdWord.op 0x000A000000000000000000000000 ∧
      0x000A ≤ CmdWord.op 0xFFFF000000000000000000000000) ∧
    ¬ (CmdWord.op 0x0001000000000000000000000000 = 0 ∨ 0x000A ≤ CmdWord.op 0x0001000000000000000000000000) ∧
    ¬ (CmdWord.op 0x0009000000000000000000000000 = 0 ∨ 0x000A ≤ CmdWord.op 0x0009000000000000000000000000) := by
  decide

theorem witness_StepRunsTheDecodedCommand :
    { plain with inputs := [.command 0x0006000600010080000000000000, .reset] }.inputs =
        .command 0x0006000600010080000000000000 :: [.reset] ∧
      decode 0x0006000600010080000000000000 = .ok (.setPixel 6 1 0x80) ∧
      (Instr.setPixel 6 1 0x80).wellFormed = true := by decide

theorem witness_StepOfReservedOpcode :
    { plain with inputs := [.command 0] }.inputs = .command 0 :: [] ∧ decode 0 = .error (.reservedOpcode 0) := by
  decide

theorem witness_IdleStepKeepsTheState : plain.inputs = [] := by decide

theorem witness_ResetTakesEveryRegisterToItsResetValue :
    { plain with inputs := [.reset] }.inputs = .reset :: [] ∧
      ∃ w landed, { plain with inputs := [.resetDuring 0x000700FF00000000000000000000 [0x1000]] }.inputs =
        .resetDuring w landed :: [] :=
  ⟨rfl, _, _, rfl⟩

/-- The clauses: reset; a CLEAR abandoned with its first and its last byte written, and an address it does not write;
a CLEAR abandoned before its first write. -/
theorem witness_ResetAbandonsTheRunningCommand :
    { plain with inputs := [.reset] }.inputs = .reset :: [] ∧
      { plain with inputs := [.resetDuring 0x000700FF00000000000000000000 [0x1000, 0x103F]] }.inputs =
        .resetDuring 0x000700FF00000000000000000000 [0x1000, 0x103F] :: [] ∧
      (∀ v : Byte, .write 0x1040 v ∉ wordAccesses 0x000700FF00000000000000000000 { plain with inputs := [] }) ∧
      { plain with inputs := [.resetDuring 0x000700FF00000000000000000000 []] }.inputs =
        .resetDuring 0x000700FF00000000000000000000 [] :: [] := by
  have h : ∀ x ∈ wordAccesses 0x000700FF00000000000000000000 { plain with inputs := [] }, x.addr ≠ 0x1040 := by
    decide +kernel
  exact ⟨rfl, rfl, fun v hv => h _ hv rfl, rfl⟩

/-- Both clauses, with the last offset and with all but the last byte written. -/
theorem witness_AbandonedClearFillsItsFirstBytes :
    ({ plain with inputs := [.resetDuring 0x000700FF00000000000000000000 [0x103F]] }.inputs =
        .resetDuring 0x000700FF00000000000000000000 [0x103F] :: [] ∧
      decode 0x000700FF00000000000000000000 = .ok (.clear 0xFF) ∧ 63 < plain.bufSize ∧
      plain.inBuffer 0x1040 = false) ∧
    { plain with
        inputs := [.resetDuring 0x000700FF00000000000000000000
          ((List.range 63).map fun i => BitVec.ofNat 32 (plain.bufBase.toNat + i))] }.inputs =
      .resetDuring 0x000700FF00000000000000000000
        ((List.range 63).map fun i => BitVec.ofNat 32 (plain.bufBase.toNat + i)) :: [] :=
  ⟨by decide, rfl⟩

theorem witness_HostWriteBetweenCommands :
    { plain with inputs := [.hostWrite 0xFFFFFFFF 7] }.inputs = .hostWrite 0xFFFFFFFF 7 :: [] ∧
      (0 : Addr) ≠ 0xFFFFFFFF := by decide

/-- Rejected rotations on either side of the accepted ones. -/
theorem witness_NewCommand :
    (∀ r : Rotation, (1 : Half) ≠ r.degrees) ∧ (∀ r : Rotation, (269 : Half) ≠ r.degrees) ∧
      ∀ r : Rotation, (360 : Half) ≠ r.degrees :=
  ⟨ne_degrees (by decide), ne_degrees (by decide), ne_degrees (by decide)⟩

theorem witness_SetRotationCommand :
    (∀ r : Rotation, (89 : Half) ≠ r.degrees) ∧ ∀ r : Rotation, (0xFFFF : Half) ≠ r.degrees :=
  ⟨ne_degrees (by decide), ne_degrees (by decide)⟩

/-- 4 is the first rejected mirror, and no mirror's operand. -/
theorem witness_SetMirrorCommand : (4 : Half) ≤ 4 ∧ ¬ (4 : Half) ≤ Mirror.both.operand := by decide

theorem witness_SetBppCommand : (∀ b : Bpp, (0 : Half) ≠ b.operand) ∧ ∀ b : Bpp, (9 : Half) ≠ b.operand :=
  ⟨ne_depth (by decide), ne_depth (by decide)⟩

theorem witness_RejectedConfigurationCommand :
    (Instr.setBpp 3).operandsAccepted = false ∧ (Instr.setBpp 4).operandsAccepted = true ∧
      (Instr.setPixel 0 0 0).operandsAccepted = true := by decide

/-- For each clause a command that changes the register. -/
theorem witness_RegistersHaveOnlyTheirWriters :
    shows (fun t => decide (t.bufBase ≠ plain.bufBase)) (exec (.selectBuffer 0x2000) plain) = some true ∧
      shows (fun t => decide (t.wm ≠ plain.wm)) (exec (.new 0 4 4 90 1) plain) = some true ∧
      shows (fun t => decide (t.bpp ≠ plain.bpp)) (exec (.setBpp 1) plain) = some true ∧
      shows (fun t => decide (t.rot ≠ plain.rot)) (exec (.setRotation 270) plain) = some true ∧
      shows (fun t => decide (t.mir ≠ plain.mir)) (exec (.setMirror 2) plain) = some true := by decide +kernel

theorem witness_StatusBitsAreSticky :
    { plain with inputs := [.command 0x0005000300000000000000000000] }.inputs =
        .command 0x0005000300000000000000000000 :: [] ∧
      rejectedWord 0x0005000300000000000000000000 = true ∧ reservedWord 0x000A000000000000000000000000 = true ∧
      { plain with inputs := [.hostWrite 0 1] }.inputs = .hostWrite 0 1 :: [] ∧ plain.inputs = [] := by decide

theorem witness_LogicalDimensionsFollowRotation :
    (plain.rot = .deg0 ∨ plain.rot = .deg180) ∧
      ((plain.setRot .deg270).rot = .deg90 ∨ (plain.setRot .deg270).rot = .deg270) := by decide

/-- The last offset of a buffer that wraps over the top of the address space, and the address after it. -/
theorem witness_BufferRangeIsTheOffsetsBelowBufSize :
    63 < (plain.setBufBase 0xFFFFFFFF).bufSize ∧ (plain.setBufBase 0xFFFFFFFF).inBuffer 0x3E = true ∧
      (plain.setBufBase 0xFFFFFFFF).inBuffer 0x3F = false := by decide

/-- The last pixel of a turned, mirrored, non-square buffer. -/
theorem witness_ToPhysicalIsExactAndInRange :
    (buffer 5 3 .b4 .deg90 .both .lsbFirst []).inLogical 2 4 := by decide

theorem witness_ToPhysicalIsABijection :
    (buffer 5 3 .b4 .deg270 .vertical .lsbFirst []).inLogical 2 4 ∧
      (4 : Half) < (buffer 5 3 .b4 .deg270 .vertical .lsbFirst []).wm ∧
      (2 : Half) < (buffer 5 3 .b4 .deg270 .vertical .lsbFirst []).hm := by decide

/-- The last pixel inside, and the first outside on each axis. -/
theorem witness_PixelHasATargetExactlyInTheLogicalRectangle :
    plain.inLogical 7 7 ∧ ¬ plain.inLogical 8 0 ∧ ¬ plain.inLogical 0 8 := by decide

theorem witness_FieldPositions : Bpp.b1 ≠ .b8 ∧ Bpp.b2 ≠ .b8 ∧ Bpp.b4 ≠ .b8 := by decide

theorem witness_FieldsPartitionTheByte :
    Bpp.b1 ≠ .b8 ∧ inByteIndex .b1 7 ≠ inByteIndex .b1 8 ∧ inByteIndex .b4 0 ≠ inByteIndex .b4 1 := by decide

/-- A pixel with a place at depth 8 and one at depth 4, and another address. -/
theorem witness_SetPixelStoresOneField :
    (pixelTarget plain 7 7 = some (0x103F, 7) ∧ plain.bpp = .b8) ∧
      (pixelTarget (buffer 5 3 .b4 .deg0 .none .msbFirst []) 4 2 = some (0x1008, 4) ∧
        (buffer 5 3 .b4 .deg0 .none .msbFirst []).bpp ≠ .b8) ∧ (0x1009 : Addr) ≠ 0x1008 := by decide +kernel

theorem witness_SetPixelOutsideIsDropped : plain.w ≤ 8 ∧ plain.h ≤ 8 ∧ ¬ plain.w ≤ 7 := by decide

/-- A pixel and its neighbour in the same byte. -/
theorem witness_SetPixelThenReadEveryPixel :
    (buffer 5 3 .b1 .deg90 .none .msbFirst []).inLogical 2 4 ∧ ((2, 3) : Half × Half) ≠ (2, 4) := by decide

theorem witness_ClearFillsTheBuffer : 63 < plain.bufSize ∧ plain.inBuffer 0x1040 = false := by decide

theorem witness_ClearThenReadEveryPixel : (buffer 5 3 .b2 .deg180 .none .msbFirst []).inLogical 4 2 := by decide

/-- End equal to start, on either axis, and below it. -/
theorem witness_DegenerateRegionDoesNothing :
    ((2 : Half) ≤ 2 ∨ (5 : Half) ≤ 2) ∧ ((3 : Half) ≤ 2 ∨ (2 : Half) ≤ 2) ∧ ((2 : Half) ≤ 5 ∨ (3 : Half) ≤ 2) := by
  decide

/-- The first and last pixel of a region, the first past its end, and an address outside the buffer. -/
theorem witness_ClearRegionThenReadEveryPixel :
    (plain.inLogical 1 2 ∧ (1 : Half) ≤ 1 ∧ (1 : Half) < 3 ∧ (2 : Half) ≤ 2 ∧ (2 : Half) < 5) ∧
      (plain.inLogical 2 4 ∧ (1 : Half) ≤ 2 ∧ (2 : Half) < 3 ∧ (2 : Half) ≤ 4 ∧ (4 : Half) < 5) ∧
      ¬ ((1 : Half) ≤ 3 ∧ (3 : Half) < 3 ∧ (2 : Half) ≤ 4 ∧ (4 : Half) < 5) ∧ plain.inBuffer 0xFFF = false := by
  decide

/-- Two pixels of one byte, in either order. -/
theorem witness_DrawingOrderDoesNotMatter :
    (buffer 5 3 .b4 .deg0 .none .msbFirst [(0x1000, 9)]).mem.wf = true ∧
      [Pixel.mk 0 0 0xF0, .mk 1 0 0x30].Perm [.mk 1 0 0x30, .mk 0 0 0xF0] ∧
      ([Pixel.mk 0 0 0xF0, .mk 1 0 0x30].map fun p => (p.x, p.y)).Nodup :=
  ⟨by decide, List.Perm.swap _ _ _, by decide⟩

/-- The ends of the ranges of the clauses: 65534 and 65535 across, 0 and 1 down. -/
theorem witness_AnchorIsTheCentreOfTheCell :
    (65534 : Half).toNat < 65535 ∧ ¬ (65535 : Half).toNat < 65535 ∧ 0 < (1 : Half).toNat ∧ ¬ 0 < (0 : Half).toNat := by
  decide

/-- The middle of the block in bounds, a pixel that is none of the nine, and an address outside the buffer. -/
theorem witness_SetColorBlockThenReadEveryPixel :
    plain.inLogical (anchorX plain.cfg.htSnap 4 - 1 + 1) (anchorY plain.cfg.htSnap 4 - 1 + 1) ∧
      (∀ i j : Fin 3, ((0, 0) : Half × Half) ≠
        (anchorX plain.cfg.htSnap 4 - 1 + BitVec.ofNat 16 j.val, anchorY plain.cfg.htSnap 4 - 1 + BitVec.ofNat 16 i.val)) ∧
      plain.inBuffer 0x1040 = false := by decide +kernel

/-- V-HT3, lines 1 and 2: (4, 4) and (3, 6) share the anchor (4, 5). -/
theorem witness_RequestsInOneCellDrawTheSame :
    plain.cfg.htSnap = Config.default.htSnap ∧ (4 : Half).toNat / 3 = (3 : Half).toNat / 3 ∧
      ((4 : Half).toNat + 2) / 3 = ((6 : Half).toNat + 2) / 3 := by decide

theorem witness_EveryAccessLiesInTheBuffer :
    Access.write 0x103F 0xF0 ∈ commandAccesses (.setPixel 7 7 0xFF) plain ∧ (7 : Half) < plain.wm ∧
      (7 : Half) < plain.hm := by decide +kernel

theorem witness_DrawingChangesOnlyTheBuffer :
    (Instr.clearRegion 0 0 9 9 0xF0).draws = true ∧ plain.inBuffer 0x1040 = false := by decide

theorem witness_ConfigurationNeverTouchesMemory : (Instr.setBpp 3).draws = false := by decide

theorem witness_OwnedBufferIsAllThatChanges :
    plain.OwnsBuffer (fun a => plain.inBuffer a = true) ∧ ¬ plain.inBuffer 0x1040 = true :=
  ⟨fun _ h => h, by decide⟩

theorem witness_AccessCounts :
    (Instr.setMirror 0).draws = false ∧ CmdWord.op 0 = 0 ∧ 0x000A ≤ CmdWord.op 0x000A000000000000000000000000 := by
  decide

theorem witness_NothingIsDrawnBeforeNew : State.reset.wm = 0 ∧ State.reset.hm = 0 := by decide

/-- A canonical state, and its step on a command. -/
theorem witness_StepKeepsTheInvariant :
    { plain with inputs := [.command 0x0002000020000000000000000000] }.Inv ∧
      step { plain with inputs := [.command 0x0002000020000000000000000000] } = .next (plain.setBufBase 0x2000) :=
  ⟨by decide, rfl⟩

end Sys2Proof.Tests
end

section
/-! PROOFS. The scope statements (00_scope.md): a step runs the decoded command, the reset state has the invariant,
and every step completes and keeps the block's parameters and the launch byte. -/

namespace Sys2Proof.Machine

open Sys2Proof

/-! ### One equation of `step` per event -/

theorem step_of_idle {s : State} (h : s.inputs = []) : step s = .next s := by
  rw [step, h]
  rfl

theorem step_of_command {s : State} {w : CmdWord} {rest : List Input} (h : s.inputs = .command w :: rest) :
    step s = runWord w (s.setInputs rest) := by
  rw [step, h]

theorem step_of_reset {s : State} {rest : List Input} (h : s.inputs = .reset :: rest) :
    step s = acceptReset (s.setInputs rest) := by
  rw [step, h]

theorem step_of_resetDuring {s : State} {w : CmdWord} {landed : List Addr} {rest : List Input}
    (h : s.inputs = .resetDuring w landed :: rest) : step s = acceptResetDuring w landed (s.setInputs rest) := by
  rw [step, h]

theorem step_of_hostWrite {s : State} {a : Addr} {v : Byte} {rest : List Input}
    (h : s.inputs = .hostWrite a v :: rest) : step s = acceptHostWrite a v (s.setInputs rest) := by
  rw [step, h]

/-! ### What an accepted word runs -/

theorem runWord_of_decode_ok {w : CmdWord} {i : Instr} (s : State) (h : decode w = .ok i) :
    runWord w s = exec i s := by
  rw [runWord, h]

theorem runWord_of_decode_error {w : CmdWord} {e : DecodeError} (s : State) (h : decode w = .error e) :
    runWord w s = .next (warnIll s) := by
  rw [runWord, h]
  rfl

/-! ### Every command and every step completes (42_framebuffer_commands.md R158, 60_exceptions.md R206) -/

/-- A command with a validated operand completes whether the operand is accepted or rejected; the others have one
outcome. -/
theorem exec_completes (i : Instr) (s : State) : ∃ t, exec i s = .next t := by
  cases i
  case new | setRotation | setMirror | setBpp =>
    simp only [exec, execNew, execSetRotation, execSetMirror, execSetBpp, rejectConfig]
    split <;> exact ⟨_, rfl⟩
  case selectBuffer | setPixel | clear | clearRegion | setColorBlock => exact ⟨_, rfl⟩

theorem runWord_completes (w : CmdWord) (s : State) : ∃ t, runWord w s = .next t := by
  cases h : decode w with
  | ok i =>
    rw [runWord_of_decode_ok s h]
    exact exec_completes i s
  | error e => exact ⟨_, runWord_of_decode_error s h⟩

theorem step_completes (s : State) : ∃ t, step s = .next t := by
  match h : s.inputs with
  | [] => exact ⟨_, step_of_idle h⟩
  | .command w :: rest =>
    rw [step_of_command h]
    exact runWord_completes w _
  | .reset :: rest => exact ⟨_, step_of_reset h⟩
  | .resetDuring w landed :: rest => exact ⟨_, step_of_resetDuring h⟩
  | .hostWrite a v :: rest => exact ⟨_, step_of_hostWrite h⟩

/-! ### What no event changes: the parameters and the launch byte -/

theorem CommandEffect.cfg_eq {s t : State} (h : CommandEffect s t) : t.cfg = s.cfg := by
  cases h <;> rfl

/-- Only drawing and filling reach the memory, and both are made of byte writes, which keep the launch byte. -/
theorem CommandEffect.launch_eq {s t : State} (h : CommandEffect s t) : t.mem.launch = s.mem.launch := by
  cases h
  case draw ps => exact foldl_pixelWrite_launch s ps s.mem
  case fill v n => exact fillBytes_launch s v n s.mem
  case geometry | bufBase | rot | mir | bpp | warn => rfl

theorem StepEffect.cfg_eq {s t : State} (h : StepEffect s t) : t.cfg = s.cfg := by
  cases h
  case command rest h => exact h.cfg_eq
  case idle | reserved | reset | resetDuring | hostWrite => rfl

theorem StepEffect.launch_eq {s t : State} (h : StepEffect s t) : t.mem.launch = s.mem.launch := by
  cases h
  case command rest h => exact h.launch_eq
  case resetDuring rest new landed => exact Memory.launch_copyBytes s.mem new landed
  case idle | reserved | reset | hostWrite => rfl

/-- The spec's default table is one it allows (00_scope.md R11). -/
theorem default_htSnap_legal : Config.default.htSnap.Legal := by
  decide

/-! ### The obligations -/

/-- Settles O58: a step completes, and each of the writes a step can make keeps both. -/
theorem stepKeepsTheParameters : Obligations.StepKeepsTheParameters := by
  intro s
  obtain ⟨t, ht⟩ := step_completes s
  have heffect : StepEffect s t := step_effect ht
  exact ⟨t, ht, heffect.cfg_eq, heffect.launch_eq⟩

/-- Settles O7: the step on a command word, then what the word runs. -/
theorem stepRunsTheDecodedCommand : Obligations.StepRunsTheDecodedCommand := by
  intro s w rest i hinputs hdecode _
  calc step s = runWord w (s.setInputs rest) := step_of_command hinputs
    _ = exec i (s.setInputs rest) := runWord_of_decode_ok _ hdecode

/-- Settles O57: the empty memory is canonical, and the default table is allowed. -/
theorem resetHasTheInvariant : Obligations.ResetHasTheInvariant :=
  ⟨State.reset_mem_wf, default_htSnap_legal⟩

end Sys2Proof.Machine
end

section
/-! PROOFS. The state (10_state.md): which command writes which register, the sticky bits of STATUS, what no command
reads, the derived values on the status outputs, and the memory as the accesses on the port leave it.

The one inversion lemma is `exec_outcome`: a command and the state it leads to stand in the relation `CommandOutcome`,
which keeps what `CommandEffect` drops, namely the command, the accepted operand, and the accesses. -/

namespace Sys2Proof.Machine

open Sys2Proof

/-! ### Drawing is performing the accesses (10_state.md R45, 20_memory.md R64) -/

theorem performAll_pixelAccesses (s : State) (m : Memory) (p : Pixel) :
    performAll (pixelAccesses s m p) m = pixelWrite s m p := by
  unfold pixelAccesses pixelWrite
  cases pixelTarget s p.x p.y with
  | none => rfl
  | some target => exact (writePixel_eq_performAll s target.1 target.2 p.color m).symm

/-- Each pixel's accesses are those on the memory that the pixels before it left. -/
theorem performAll_pixelsAccesses (s : State) (ps : List Pixel) (m : Memory) :
    performAll (pixelsAccesses s m ps) m = ps.foldl (pixelWrite s) m := by
  induction ps generalizing m with
  | nil => rfl
  | cons p ps ih => rw [pixelsAccesses, performAll_append, performAll_pixelAccesses, ih, List.foldl_cons]

theorem performAll_fillAccesses (s : State) (v : Byte) (n : Nat) (m : Memory) :
    performAll (fillAccesses s v n) m = fillBytes s v n m :=
  List.foldl_map

/-- A drawing command performs its accesses and does nothing else. -/
theorem exec_of_draws {i : Instr} (s : State) (h : i.draws = true) :
    exec i s = .next (s.setMem (performAll (commandAccesses i s) s.mem)) := by
  cases i
  case setPixel | clearRegion | setColorBlock =>
    rw [commandAccesses, performAll_pixelsAccesses]
    rfl
  case clear =>
    rw [commandAccesses, performAll_fillAccesses]
    rfl
  case new | selectBuffer | setRotation | setMirror | setBpp => cases h

theorem commandAccesses_of_not_draws {i : Instr} (s : State) (h : i.draws = false) : commandAccesses i s = [] := by
  cases i
  case new | selectBuffer | setRotation | setMirror | setBpp => rfl
  case setPixel | clear | clearRegion | setColorBlock => cases h

/-! ### Accepted and rejected operands (30_encoding.md R75 to R77, R84) -/

theorem rotationAccepted_of_ofDegrees {v : Half} {r : Rotation} (h : Rotation.ofDegrees v = some r) :
    rotationAccepted v := by
  by_contra hv
  cases h.symm.trans (ofDegrees_eq_none.mpr hv)

theorem mirrorAccepted_of_ofOperand {v : Half} {m : Mirror} (h : Mirror.ofOperand v = some m) :
    mirrorAccepted v := by
  by_contra hv
  cases h.symm.trans (ofOperand_mirror_eq_none.mpr hv)

theorem bppAccepted_of_ofOperand {v : Half} {b : Bpp} (h : Bpp.ofOperand v = some b) : bppAccepted v := by
  by_contra hv
  cases h.symm.trans (ofOperand_bpp_eq_none.mpr hv)

/-- A drawing command has no validated operand (R84). -/
theorem operandsAccepted_of_draws {i : Instr} (h : i.draws = true) : i.operandsAccepted = true := by
  cases i
  case setPixel | clear | clearRegion | setColorBlock => rfl
  case new | selectBuffer | setRotation | setMirror | setBpp => cases h

theorem not_draws_of_rejected {i : Instr} (h : i.operandsAccepted = false) : i.draws = false := by
  by_contra hdraws
  cases h.symm.trans (operandsAccepted_of_draws (Bool.eq_true_of_not_eq_false hdraws))

/-- A rejected command sets CFG_WARN and does nothing else (42_framebuffer_commands.md R145). -/
theorem exec_of_rejected {i : Instr} (s : State) (h : i.operandsAccepted = false) :
    exec i s = .next (warnCfg s) := by
  cases i
  case new | setRotation =>
    simp only [exec, execNew, execSetRotation, ofDegrees_eq_none.mpr (of_decide_eq_false h)]
    rfl
  case setMirror =>
    simp only [exec, execSetMirror, ofOperand_mirror_eq_none.mpr (of_decide_eq_false h)]
    rfl
  case setBpp =>
    simp only [exec, execSetBpp, ofOperand_bpp_eq_none.mpr (of_decide_eq_false h)]
    rfl
  case selectBuffer | setPixel | clear | clearRegion | setColorBlock => cases h

/-! ### What each command leads to -/

/-- The state a command leads to: five accepted configuration commands with the register each writes, the drawing
commands with the memory their accesses leave, and rejection. -/
inductive CommandOutcome (s : State) : Instr → State → Prop where
  | new {buf : Addr} {width height rotation f : Half} {r : Rotation} (h : Rotation.ofDegrees rotation = some r) :
      CommandOutcome s (.new buf width height rotation f) (s.setGeometry buf width height r f)
  | selectBuffer {buf : Addr} : CommandOutcome s (.selectBuffer buf) (s.setBufBase buf)
  | setRotation {rotation : Half} {r : Rotation} (h : Rotation.ofDegrees rotation = some r) :
      CommandOutcome s (.setRotation rotation) (s.setRot r)
  | setMirror {mirror : Half} {m : Mirror} (h : Mirror.ofOperand mirror = some m) :
      CommandOutcome s (.setMirror mirror) (s.setMir m)
  | setBpp {bpp : Half} {b : Bpp} (h : Bpp.ofOperand bpp = some b) : CommandOutcome s (.setBpp bpp) (s.setBpp b)
  | draws {i : Instr} (h : i.draws = true) :
      CommandOutcome s i (s.setMem (performAll (commandAccesses i s) s.mem))
  | rejected {i : Instr} (h : i.operandsAccepted = false) : CommandOutcome s i (warnCfg s)

theorem CommandOutcome.exec_eq {s t : State} {i : Instr} (h : CommandOutcome s i t) : exec i s = .next t := by
  cases h with
  | new h | setRotation h => simp only [exec, execNew, execSetRotation, h]
  | selectBuffer => rfl
  | setMirror h => simp only [exec, execSetMirror, h]
  | setBpp h => simp only [exec, execSetBpp, h]
  | draws h => exact exec_of_draws s h
  | rejected h => exact exec_of_rejected s h

/-- The validated operand, where there is one, is in its table or the command is rejected. -/
theorem commandOutcome_exists (i : Instr) (s : State) : ∃ t, CommandOutcome s i t := by
  cases i with
  | new buf width height rotation f =>
    cases h : Rotation.ofDegrees rotation with
    | some r => exact ⟨_, .new h⟩
    | none => exact ⟨_, .rejected (decide_eq_false (ofDegrees_eq_none.mp h))⟩
  | selectBuffer buf => exact ⟨_, .selectBuffer⟩
  | setRotation rotation =>
    cases h : Rotation.ofDegrees rotation with
    | some r => exact ⟨_, .setRotation h⟩
    | none => exact ⟨_, .rejected (decide_eq_false (ofDegrees_eq_none.mp h))⟩
  | setMirror mirror =>
    cases h : Mirror.ofOperand mirror with
    | some m => exact ⟨_, .setMirror h⟩
    | none => exact ⟨_, .rejected (decide_eq_false (ofOperand_mirror_eq_none.mp h))⟩
  | setBpp bpp =>
    cases h : Bpp.ofOperand bpp with
    | some b => exact ⟨_, .setBpp h⟩
    | none => exact ⟨_, .rejected (decide_eq_false (ofOperand_bpp_eq_none.mp h))⟩
  | setPixel | clear | clearRegion | setColorBlock => exact ⟨_, .draws rfl⟩

theorem exec_outcome (i : Instr) (s : State) : ∃ t, exec i s = .next t ∧ CommandOutcome s i t := by
  obtain ⟨t, h⟩ := commandOutcome_exists i s
  exact ⟨t, h.exec_eq, h⟩

/-! ### Each register's writers (10_state.md R23 to R30) -/

/-- The command is a NEW with an accepted rotation. -/
abbrev AcceptedNew (i : Instr) : Prop := ∃ buf w h r f, i = .new buf w h r f ∧ rotationAccepted r

theorem CommandOutcome.writer_of_bufBase_ne {s t : State} {i : Instr} (h : CommandOutcome s i t)
    (hne : t.bufBase ≠ s.bufBase) :
    ∃ buf, (∃ w h r f, i = .new buf w h r f ∧ rotationAccepted r) ∨ i = .selectBuffer buf := by
  cases h
  case new h => exact ⟨_, .inl ⟨_, _, _, _, rfl, rotationAccepted_of_ofDegrees h⟩⟩
  case selectBuffer => exact ⟨_, .inr rfl⟩
  case setRotation | setMirror | setBpp | draws | rejected => exact absurd rfl hne

theorem CommandOutcome.writer_of_geometry_ne {s t : State} {i : Instr} (h : CommandOutcome s i t)
    (hne : t.wm ≠ s.wm ∨ t.hm ≠ s.hm ∨ t.colorFlag ≠ s.colorFlag) : AcceptedNew i := by
  cases h
  case new h => exact ⟨_, _, _, _, _, rfl, rotationAccepted_of_ofDegrees h⟩
  case selectBuffer | setRotation | setMirror | setBpp | draws | rejected =>
    obtain hwm | hhm | hcolorFlag := hne
    · exact absurd rfl hwm
    · exact absurd rfl hhm
    · exact absurd rfl hcolorFlag

theorem CommandOutcome.writer_of_bpp_ne {s t : State} {i : Instr} (h : CommandOutcome s i t) (hne : t.bpp ≠ s.bpp) :
    AcceptedNew i ∨ ∃ b, i = .setBpp b ∧ bppAccepted b := by
  cases h
  case new h => exact .inl ⟨_, _, _, _, _, rfl, rotationAccepted_of_ofDegrees h⟩
  case setBpp h => exact .inr ⟨_, rfl, bppAccepted_of_ofOperand h⟩
  case selectBuffer | setRotation | setMirror | draws | rejected => exact absurd rfl hne

theorem CommandOutcome.writer_of_rot_ne {s t : State} {i : Instr} (h : CommandOutcome s i t) (hne : t.rot ≠ s.rot) :
    AcceptedNew i ∨ ∃ r, i = .setRotation r ∧ rotationAccepted r := by
  cases h
  case new h => exact .inl ⟨_, _, _, _, _, rfl, rotationAccepted_of_ofDegrees h⟩
  case setRotation h => exact .inr ⟨_, rfl, rotationAccepted_of_ofDegrees h⟩
  case selectBuffer | setMirror | setBpp | draws | rejected => exact absurd rfl hne

theorem CommandOutcome.writer_of_mir_ne {s t : State} {i : Instr} (h : CommandOutcome s i t) (hne : t.mir ≠ s.mir) :
    AcceptedNew i ∨ ∃ m, i = .setMirror m ∧ mirrorAccepted m := by
  cases h
  case new h => exact .inl ⟨_, _, _, _, _, rfl, rotationAccepted_of_ofDegrees h⟩
  case setMirror h => exact .inr ⟨_, rfl, mirrorAccepted_of_ofOperand h⟩
  case selectBuffer | setRotation | setBpp | draws | rejected => exact absurd rfl hne

/-- Settles O21: one writer lemma per register, over the seven outcomes of a command. -/
theorem registersHaveOnlyTheirWriters : Obligations.RegistersHaveOnlyTheirWriters := by
  intro i s
  obtain ⟨t, ht, houtcome⟩ := exec_outcome i s
  exact ⟨t, ht, houtcome.writer_of_bufBase_ne, houtcome.writer_of_geometry_ne, houtcome.writer_of_bpp_ne,
    houtcome.writer_of_rot_ne, houtcome.writer_of_mir_ne⟩

/-! ### STATUS (10_state.md R36, 60_exceptions.md R201, R204) -/

@[simp] theorem warnCfg_cfgWarn (s : State) : (warnCfg s).cfgWarn = true := by
  simp [State.cfgWarn]

@[simp] theorem warnCfg_illCmd (s : State) : (warnCfg s).illCmd = s.illCmd := by
  simp [State.illCmd]

@[simp] theorem warnIll_cfgWarn (s : State) : (warnIll s).cfgWarn = s.cfgWarn := by
  simp [State.cfgWarn]

@[simp] theorem warnIll_illCmd (s : State) : (warnIll s).illCmd = true := by
  simp [State.illCmd]

/-- An accepted command leaves STATUS alone, a rejected one sets CFG_WARN. -/
theorem CommandOutcome.cfgWarn_eq {s t : State} {i : Instr} (h : CommandOutcome s i t) :
    t.cfgWarn = (s.cfgWarn || !i.operandsAccepted) := by
  have accepted {i : Instr} (hi : i.operandsAccepted = true) : s.cfgWarn = (s.cfgWarn || !i.operandsAccepted) := by
    simp [hi]
  cases h
  case new h | setRotation h => exact accepted (decide_eq_true (rotationAccepted_of_ofDegrees h))
  case selectBuffer => exact accepted rfl
  case setMirror h => exact accepted (decide_eq_true (mirrorAccepted_of_ofOperand h))
  case setBpp h => exact accepted (decide_eq_true (bppAccepted_of_ofOperand h))
  case draws h => exact accepted (operandsAccepted_of_draws h)
  case rejected h => simp [h]

theorem CommandOutcome.illCmd_eq {s t : State} {i : Instr} (h : CommandOutcome s i t) : t.illCmd = s.illCmd := by
  cases h
  case rejected h => exact warnCfg_illCmd s
  case new | selectBuffer | setRotation | setMirror | setBpp | draws => rfl

/-- A word either decodes, and then only rejection touches STATUS, or is reserved and sets ILL_CMD. -/
theorem runWord_status_bits (w : CmdWord) (s : State) :
    ∃ t, runWord w s = .next t ∧ t.cfgWarn = (s.cfgWarn || rejectedWord w) ∧
      t.illCmd = (s.illCmd || reservedWord w) := by
  cases hdecode : decode w with
  | ok i =>
    obtain ⟨t, ht, houtcome⟩ := exec_outcome i s
    refine ⟨t, (runWord_of_decode_ok s hdecode).trans ht, ?_, ?_⟩
    · simpa [rejectedWord, hdecode] using houtcome.cfgWarn_eq
    · simpa [reservedWord, hdecode] using houtcome.illCmd_eq
  | error e =>
    refine ⟨warnIll s, runWord_of_decode_error s hdecode, ?_, ?_⟩
    · simp [rejectedWord, hdecode]
    · simp [reservedWord, hdecode]

/-- Settles O22: the bits after a command word, and the two other events, which write no register. -/
theorem statusBitsAreSticky : Obligations.StatusBitsAreSticky := by
  refine ⟨fun s w rest hinputs => ?_, fun s a v rest hinputs => ?_, fun s hinputs => ?_⟩
  · rw [step_of_command hinputs]
    exact runWord_status_bits w (s.setInputs rest)
  · exact ⟨_, step_of_hostWrite hinputs, rfl⟩
  · exact ⟨s, step_of_idle hinputs, rfl⟩

/-! ### STATUS and COLOR_FLAG are not read (10_state.md R30, R36) -/

/-- The state with other values in the two registers that no command reads. -/
def State.withUnread (s : State) (st : BitVec 2) (f : Half) : State := { s with status := st, colorFlag := f }

theorem pixelWrite_withUnread (s : State) (st : BitVec 2) (f : Half) :
    pixelWrite (s.withUnread st f) = pixelWrite s := rfl

theorem pixelAccesses_withUnread (s : State) (st : BitVec 2) (f : Half) :
    pixelAccesses (s.withUnread st f) = pixelAccesses s := rfl

theorem pixelsAccesses_withUnread (s : State) (st : BitVec 2) (f : Half) (m : Memory) (ps : List Pixel) :
    pixelsAccesses (s.withUnread st f) m ps = pixelsAccesses s m ps := by
  induction ps generalizing m with
  | nil => rfl
  | cons p ps ih => rw [pixelsAccesses, pixelsAccesses, pixelAccesses_withUnread, pixelWrite_withUnread, ih]

theorem commandAccesses_withUnread (i : Instr) (s : State) (st : BitVec 2) (f : Half) :
    commandAccesses i (s.withUnread st f) = commandAccesses i s := by
  cases i
  case setPixel | clearRegion | setColorBlock => exact pixelsAccesses_withUnread s st f s.mem _
  case new | selectBuffer | setRotation | setMirror | setBpp | clear => rfl

/-- From states that differ only in the two registers a command has the same outcome up to them: rejection goes on from
the other STATUS, and an accepted NEW makes COLOR_FLAG the same again. -/
theorem CommandOutcome.withUnread {s t : State} {i : Instr} (h : CommandOutcome s i t) (st : BitVec 2) (f : Half) :
    ∃ st' f', CommandOutcome (s.withUnread st f) i (t.withUnread st' f') := by
  cases h with
  | new h => exact ⟨st, _, .new h⟩
  | selectBuffer => exact ⟨st, f, .selectBuffer⟩
  | setRotation h => exact ⟨st, f, .setRotation h⟩
  | setMirror h => exact ⟨st, f, .setMirror h⟩
  | setBpp h => exact ⟨st, f, .setBpp h⟩
  | draws h =>
    refine ⟨st, f, ?_⟩
    rw [← commandAccesses_withUnread i s st f]
    exact .draws h
  | rejected h => exact ⟨st ||| 0b01, f, .rejected h⟩

/-- Settles O23: the outcome of the changed state, compared with that of the state itself. -/
theorem statusAndColorFlagAreNeverRead : Obligations.StatusAndColorFlagAreNeverRead := by
  intro i s st f
  obtain ⟨t, ht, houtcome⟩ := exec_outcome i s
  obtain ⟨st', f', hchanged⟩ := houtcome.withUnread st f
  exact ⟨t, t.withUnread st' f', ht, hchanged.exec_eq, rfl, commandAccesses_withUnread i s st f⟩

/-! ### Derived values on the status outputs (10_state.md R31 to R34, R46) -/

/-- The operand that asks for a depth is its number of bits (R27, 30_encoding.md R77). -/
@[simp] theorem Bpp.toNat_operand (b : Bpp) : b.operand.toNat = b.bits := by
  cases b <;> rfl

theorem Bpp.bits_le_eight (b : Bpp) : b.bits ≤ 8 := by
  cases b <;> decide

/-- A row has at most one byte per pixel, so WB fits the 16 bits of WM. -/
theorem State.wb_le_wm (s : State) : s.wb ≤ s.wm.toNat := by
  have hbits : s.wm.toNat * s.bpp.bits ≤ s.wm.toNat * 8 := Nat.mul_le_mul_left _ s.bpp.bits_le_eight
  unfold State.wb
  omega

theorem State.wb_le (s : State) : s.wb ≤ 65535 :=
  s.wb_le_wm.trans (Nat.le_of_lt_succ s.wm.isLt)

theorem State.bufSize_le (s : State) : s.bufSize ≤ 65535 * 65535 :=
  Nat.mul_le_mul s.wb_le (Nat.le_of_lt_succ s.hm.isLt)

theorem State.toNat_outputs_wb (s : State) : s.outputs.wb.toNat = s.wb :=
  (BitVec.toNat_ofNat _ _).trans (Nat.mod_eq_of_lt (Nat.lt_succ_of_le s.wb_le))

theorem State.toNat_outputs_bufSize (s : State) : s.outputs.bufSize.toNat = s.bufSize :=
  (BitVec.toNat_ofNat _ _).trans (Nat.mod_eq_of_lt (s.bufSize_le.trans_lt (by decide)))

/-- The largest value, 256 at depth 8, is why the output has nine bits (R47). -/
theorem State.toNat_outputs_grayScale (s : State) : s.outputs.grayScale.toNat = 2 ^ s.bpp.bits := by
  have hpow : 2 ^ s.bpp.bits ≤ 2 ^ 8 := Nat.pow_le_pow_right (by decide) s.bpp.bits_le_eight
  exact (BitVec.toNat_ofNat _ _).trans (Nat.mod_eq_of_lt (hpow.trans_lt (by decide)))

/-- Settles O24: WB is at most WM, which bounds BUF_SIZE, and both bounds lie below the outputs' widths. -/
theorem derivedValuesFitTheirOutputs : Obligations.DerivedValuesFitTheirOutputs := by
  intro s
  rw [Bpp.toNat_operand]
  have hceil : s.wb = (s.wm.toNat * s.bpp.bits + 7) / 8 := rfl
  exact ⟨by omega, by omega, s.wb_le, s.toNat_outputs_wb, rfl, s.bufSize_le, s.toNat_outputs_bufSize,
    s.toNat_outputs_grayScale⟩

/-! ### The memory after a command -/

/-- Only a drawing command makes accesses, and only it writes the memory. -/
theorem CommandOutcome.mem_eq {s t : State} {i : Instr} (h : CommandOutcome s i t) :
    t.mem = performAll (commandAccesses i s) s.mem := by
  cases h
  case new | selectBuffer | setRotation | setMirror | setBpp | draws => rfl
  case rejected h =>
    rw [commandAccesses_of_not_draws s (not_draws_of_rejected h)]
    rfl

/-- Settles O53: the memory part of a command's outcome. -/
theorem accessesInOrderGiveTheMemory : Obligations.AccessesInOrderGiveTheMemory := by
  intro i s
  obtain ⟨t, ht, houtcome⟩ := exec_outcome i s
  exact ⟨t, ht, houtcome.mem_eq⟩

/-! ### Logical dimensions and codes -/

/-- Settles O25: by the four rotations. -/
theorem logicalDimensionsFollowRotation : Obligations.LogicalDimensionsFollowRotation := by
  intro s
  refine ⟨?_, ?_⟩
  · rintro (h | h) <;> simp [State.w, State.h, h]
  · rintro (h | h) <;> simp [State.w, State.h, h]

/-- BPP shows the number of bits, and GRAY_SCALE its power of two (R27, R33). -/
theorem State.outputs_bpp_eq (s : State) :
    (s.bpp = .b1 ∧ s.outputs.bpp = 1 ∧ s.outputs.grayScale = 2) ∨
      (s.bpp = .b2 ∧ s.outputs.bpp = 2 ∧ s.outputs.grayScale = 4) ∨
      (s.bpp = .b4 ∧ s.outputs.bpp = 4 ∧ s.outputs.grayScale = 16) ∨
      (s.bpp = .b8 ∧ s.outputs.bpp = 8 ∧ s.outputs.grayScale = 256) := by
  cases h : s.bpp <;> simp [State.outputs, State.grayScale, Bpp.bits, h]

/-- ROT shows degrees / 90 (R28). -/
theorem State.outputs_rot_eq (s : State) :
    (s.rot = .deg0 ∧ s.outputs.rot = 0) ∨ (s.rot = .deg90 ∧ s.outputs.rot = 1) ∨
      (s.rot = .deg180 ∧ s.outputs.rot = 2) ∨ (s.rot = .deg270 ∧ s.outputs.rot = 3) := by
  cases h : s.rot <;> simp [State.outputs, Rotation.code, h]

/-- MIR shows bit 0 horizontal, bit 1 vertical (R29). -/
theorem State.outputs_mir_eq (s : State) :
    (s.mir = .none ∧ s.outputs.mir = 0b00) ∨ (s.mir = .horizontal ∧ s.outputs.mir = 0b01) ∨
      (s.mir = .vertical ∧ s.outputs.mir = 0b10) ∨ (s.mir = .both ∧ s.outputs.mir = 0b11) := by
  cases h : s.mir <;> simp [State.outputs, Mirror.code, h]

/-- Settles O60: registers as they are, WB and BUF_SIZE by their bounds, and the codes by cases. -/
theorem statusOutputsShowTheState : Obligations.StatusOutputsShowTheState := by
  intro s
  rw [Bpp.toNat_operand]
  exact ⟨rfl, rfl, rfl, rfl, rfl, rfl, rfl, s.toNat_outputs_wb, s.toNat_outputs_bufSize, s.outputs_bpp_eq,
    s.outputs_rot_eq, s.outputs_mir_eq⟩

end Sys2Proof.Machine
end

section
/-! PROOFS. The memory (20_memory.md): its canonical form under every step, the buffer range as the image of the byte
offsets, where each access of a command lies, and the host's write between commands. -/

namespace Sys2Proof.Machine

open Sys2Proof

/-! ### The canonical form under every step (R50) -/

/-- Drawing and filling are made of byte writes, which keep the canonical form. -/
theorem CommandEffect.mem_wf {s t : State} (h : CommandEffect s t) (hwf : s.mem.wf = true) : t.mem.wf = true := by
  cases h
  case draw ps => exact foldl_pixelWrite_wf s ps hwf
  case fill v n => exact fillBytes_wf s v n hwf
  case geometry | bufBase | rot | mir | bpp | warn => exact hwf

/-- Beside commands, only an abandoned command and the host write the memory, both byte by byte. -/
theorem StepEffect.mem_wf {s t : State} (h : StepEffect s t) (hwf : s.mem.wf = true) : t.mem.wf = true := by
  cases h
  case command rest h => exact h.mem_wf hwf
  case resetDuring rest new landed => exact Memory.wf_copyBytes new landed hwf
  case hostWrite rest a v => exact Memory.wf_write a v hwf
  case idle | reserved | reset => exact hwf

/-- Settles O56: each write a step can make keeps the canonical form, and none changes the table. -/
theorem stepKeepsTheInvariant : Obligations.StepKeepsTheInvariant := by
  rintro s t ⟨hwf, hlegal⟩ hstep
  have heffect : StepEffect s t := step_effect hstep
  refine ⟨heffect.mem_wf hwf, ?_⟩
  rw [heffect.cfg_eq]
  exact hlegal

/-! ### The buffer range (R54) -/

theorem State.bufSize_lt (s : State) : s.bufSize < 2 ^ 32 :=
  s.bufSize_le.trans_lt (by decide)

/-- The distance of an offset's address from BUF_BASE is the offset, also where the address wraps. -/
theorem State.toNat_bufAddr_sub_bufBase (s : State) {i : Nat} (h : i < 2 ^ 32) :
    (s.bufAddr i - s.bufBase).toNat = i := by
  have haddr : s.bufAddr i = s.bufBase + BitVec.ofNat 32 i := by
    rw [State.bufAddr, BitVec.ofNat_add, BitVec.ofNat_toNat, BitVec.setWidth_eq]
  rw [haddr, BitVec.add_comm, BitVec.add_sub_cancel, BitVec.toNat_ofNat, Nat.mod_eq_of_lt h]

/-- Every address is that of its own distance from BUF_BASE. -/
theorem State.bufAddr_toNat_sub_bufBase (s : State) (a : Addr) : s.bufAddr (a - s.bufBase).toNat = a := by
  rw [State.bufAddr, BitVec.ofNat_add, BitVec.ofNat_toNat, BitVec.ofNat_toNat, BitVec.setWidth_eq,
    BitVec.setWidth_eq, BitVec.add_comm, BitVec.sub_add_cancel]

theorem State.bufAddr_injOn (s : State) {i j : Nat} (hi : i < s.bufSize) (hj : j < s.bufSize)
    (h : s.bufAddr i = s.bufAddr j) : i = j := by
  calc i = (s.bufAddr i - s.bufBase).toNat := (s.toNat_bufAddr_sub_bufBase (hi.trans s.bufSize_lt)).symm
    _ = (s.bufAddr j - s.bufBase).toNat := by rw [h]
    _ = j := s.toNat_bufAddr_sub_bufBase (hj.trans s.bufSize_lt)

theorem State.inBuffer_iff (s : State) (a : Addr) : s.inBuffer a = true ↔ ∃ i < s.bufSize, a = s.bufAddr i := by
  rw [State.inBuffer, decide_eq_true_eq]
  constructor
  · intro h
    exact ⟨_, h, (s.bufAddr_toNat_sub_bufBase a).symm⟩
  · rintro ⟨i, hi, rfl⟩
    rwa [s.toNat_bufAddr_sub_bufBase (hi.trans s.bufSize_lt)]

/-- Settles O26: the offsets below BUF_SIZE, which is below 2^32, are the distances of the range from BUF_BASE. -/
theorem bufferRangeIsTheOffsetsBelowBufSize : Obligations.BufferRangeIsTheOffsetsBelowBufSize :=
  fun s => ⟨s.inBuffer_iff, fun _ hi _ hj => s.bufAddr_injOn hi hj⟩

/-! ### The byte of a physical pixel (R58, 40_pixel_packer.md R101) -/

theorem Bpp.bits_pos (b : Bpp) : 0 < b.bits := by
  cases b <;> decide

/-- A row of WB bytes holds the byte of each of its WM pixels. -/
theorem State.rowOffset_lt_wb (s : State) {xPhys : Half} (h : xPhys < s.wm) :
    xPhys.toNat * s.bpp.bits / 8 < s.wb := by
  have hfields : (xPhys.toNat + 1) * s.bpp.bits ≤ s.wm.toNat * s.bpp.bits := Nat.mul_le_mul_right _ h
  have hbits := s.bpp.bits_pos
  rw [Nat.succ_mul] at hfields
  unfold State.wb
  omega

/-- A pixel's byte lies in its row, and its row is one of the HM rows of the buffer. -/
theorem State.byteOffset_lt_bufSize (s : State) {xPhys yPhys : Half} (hx : xPhys < s.wm) (hy : yPhys < s.hm) :
    s.byteOffset xPhys yPhys < s.bufSize := by
  calc s.byteOffset xPhys yPhys < s.wb + yPhys.toNat * s.wb := Nat.add_lt_add_right (s.rowOffset_lt_wb hx) _
    _ = (yPhys.toNat + 1) * s.wb := by rw [Nat.succ_mul, Nat.add_comm]
    _ ≤ s.hm.toNat * s.wb := Nat.mul_le_mul_right _ hy
    _ = s.bufSize := Nat.mul_comm _ _

theorem pixelTarget_addr {s : State} {x y : Half} {a : Addr} {xPhys : Half}
    (h : pixelTarget s x y = some (a, xPhys)) : ∃ k < s.bufSize, a = s.bufAddr k := by
  obtain ⟨-, -, hx, hy, -, ha⟩ := pixelTarget_eq_some h
  exact ⟨_, s.byteOffset_lt_bufSize hx hy, ha⟩

/-! ### The address of every access (R58) -/

/-- One store, or one read and one store of the same byte (40_pixel_packer.md R105, R106). -/
theorem addr_of_mem_writePixelAccesses {s : State} {a : Addr} {xPhys color : Half} {m : Memory} {acc : Access}
    (h : acc ∈ writePixelAccesses s a xPhys color m) : acc.addr = a := by
  unfold writePixelAccesses at h
  cases hbpp : s.bpp with
  | b8 =>
    rw [hbpp, List.mem_singleton] at h
    rw [h]
    rfl
  | b4 | b2 | b1 =>
    rw [hbpp, List.mem_pair] at h
    rcases h with h | h <;> rw [h] <;> rfl

/-- A pixel write accesses its target. -/
theorem target_of_mem_pixelAccesses {s : State} {m : Memory} {p : Pixel} {acc : Access}
    (h : acc ∈ pixelAccesses s m p) : ∃ xPhys, pixelTarget s p.x p.y = some (acc.addr, xPhys) := by
  unfold pixelAccesses at h
  cases htarget : pixelTarget s p.x p.y with
  | none =>
    rw [htarget] at h
    cases h
  | some target =>
    rw [htarget] at h
    exact ⟨target.2, by rw [addr_of_mem_writePixelAccesses h]⟩

/-- A sequence of pixel writes accesses the targets of its pixels. -/
theorem target_of_mem_pixelsAccesses {s : State} {ps : List Pixel} {m : Memory} {acc : Access}
    (h : acc ∈ pixelsAccesses s m ps) : ∃ p ∈ ps, ∃ xPhys, pixelTarget s p.x p.y = some (acc.addr, xPhys) := by
  induction ps generalizing m with
  | nil => cases h
  | cons p ps ih =>
    rw [pixelsAccesses, List.mem_append] at h
    rcases h with hp | hps
    · exact ⟨p, List.mem_cons_self, target_of_mem_pixelAccesses hp⟩
    · obtain ⟨q, hq, htarget⟩ := ih hps
      exact ⟨q, List.mem_cons_of_mem _ hq, htarget⟩

theorem addr_of_mem_pixelsAccesses {s : State} {ps : List Pixel} {m : Memory} {acc : Access}
    (h : acc ∈ pixelsAccesses s m ps) : ∃ k < s.bufSize, acc.addr = s.bufAddr k := by
  obtain ⟨_, -, _, htarget⟩ := target_of_mem_pixelsAccesses h
  exact pixelTarget_addr htarget

theorem addr_of_mem_fillAccesses {s : State} {v : Byte} {n : Nat} {acc : Access} (h : acc ∈ fillAccesses s v n) :
    ∃ k < n, acc.addr = s.bufAddr k := by
  obtain ⟨k, hk, rfl⟩ := List.mem_map.mp h
  exact ⟨k, ((mem_forRange 0 n k).mp hk).2, rfl⟩

/-- CLEAR accesses the offsets below BUF_SIZE, the other drawing commands the targets of pixels. -/
theorem addr_of_mem_commandAccesses {i : Instr} {s : State} {acc : Access} (h : acc ∈ commandAccesses i s) :
    ∃ k < s.bufSize, acc.addr = s.bufAddr k := by
  cases i
  case setPixel | clearRegion | setColorBlock => exact addr_of_mem_pixelsAccesses h
  case clear => exact addr_of_mem_fillAccesses h
  case new | selectBuffer | setRotation | setMirror | setBpp => cases h

/-- Settles O48: where a command's accesses lie, and the two offset bounds. -/
theorem everyAccessLiesInTheBuffer : Obligations.EveryAccessLiesInTheBuffer := by
  refine ⟨fun i s acc h => addr_of_mem_commandAccesses h, fun s xPhys yPhys hx hy => ?_⟩
  rw [Bpp.toNat_operand]
  exact ⟨s.rowOffset_lt_wb hx, s.byteOffset_lt_bufSize hx hy⟩

/-! ### The host's write (R52, 70_reset_and_hazards.md R228) -/

/-- Settles O14: the step is one memory write in the state that has taken the event. -/
theorem hostWriteBetweenCommands : Obligations.HostWriteBetweenCommands := by
  intro s a v rest hinputs
  exact ⟨_, step_of_hostWrite hinputs, rfl, Memory.read_write_same s.mem a v,
    fun c hc => Memory.read_write_other s.mem v hc⟩

end Sys2Proof.Machine
end

section
/-! PROOFS. The command word (30_encoding.md): the decoder as one equivalence, from which the two directions of the
round trip, the ignored fields and the reserved opcodes follow.

The key fact is `decode_eq_ok_iff`: a word decodes to a command exactly when it carries the command's opcode and, in
the fields the command uses, the command's operands. -/

namespace Sys2Proof

open Machine

/-! ### The decoder (R71, R72) -/

/-- The operand fields a command uses, F0 first; a buffer address takes two of them (R72, R73). -/
def Instr.fields : Instr → List Half
  | .new buf width height rotation colorFlag => [bufHi buf, bufLo buf, width, height, rotation, colorFlag]
  | .selectBuffer buf => [bufHi buf, bufLo buf]
  | .setRotation rotation => [rotation]
  | .setMirror mirror => [mirror]
  | .setBpp bpp => [bpp]
  | .setPixel x y color => [x, y, color]
  | .clear color => [color]
  | .clearRegion xStart yStart xEnd yEnd color => [xStart, yStart, xEnd, yEnd, color]
  | .setColorBlock x y color => [x, y, color]

theorem opcode_eq_of_decode_ok {w : CmdWord} {i : Instr} (h : decode w = .ok i) : CmdWord.op w = i.opcode := by
  unfold decode at h
  split at h
  case h_10 => cases h
  all_goals
    next hop =>
      cases h
      exact BitVec.eq_of_toNat_eq hop

theorem take_operands_of_decode_ok {w : CmdWord} {i : Instr} (h : decode w = .ok i) :
    (CmdWord.operands w).take (usedFields i.opcode) = i.fields := by
  unfold decode at h
  split at h
  case h_10 => cases h
  all_goals
    cases h
    simp [CmdWord.operands, Instr.fields, usedFields, Instr.opcode]

/-- Per command: the match on OP takes the command's arm, and its operands are the fields. -/
theorem decode_ok_of_fields {w : CmdWord} {i : Instr} (hop : CmdWord.op w = i.opcode)
    (hfields : (CmdWord.operands w).take (usedFields i.opcode) = i.fields) : decode w = .ok i := by
  rw [decode, hop]
  cases i
  all_goals
    simp [CmdWord.operands, Instr.fields, usedFields, Instr.opcode] at hfields
    simp [Instr.opcode, hfields]

theorem decode_eq_ok_iff {w : CmdWord} {i : Instr} :
    decode w = .ok i ↔
      CmdWord.op w = i.opcode ∧ (CmdWord.operands w).take (usedFields i.opcode) = i.fields :=
  ⟨fun h => ⟨opcode_eq_of_decode_ok h, take_operands_of_decode_ok h⟩,
    fun ⟨hop, hfields⟩ => decode_ok_of_fields hop hfields⟩

/-- The opcodes that select no command (R83). -/
abbrev ReservedOpcode (op : Half) : Prop := op = 0 ∨ 0x000A ≤ op

theorem Instr.not_reservedOpcode_opcode (i : Instr) : ¬ ReservedOpcode i.opcode := by
  cases i <;> simp [Instr.opcode]

theorem reservedOpcode_of_decode_error {w : CmdWord} {e : DecodeError} (h : decode w = .error e) :
    ReservedOpcode (CmdWord.op w) ∧ e = .reservedOpcode (CmdWord.op w) := by
  unfold decode at h
  split at h
  case h_10 =>
    cases h
    refine ⟨?_, rfl⟩
    simp only [ReservedOpcode, imp_false] at *
    bv_omega
  all_goals cases h

theorem decode_eq_error_iff {w : CmdWord} :
    decode w = .error (.reservedOpcode (CmdWord.op w)) ↔ ReservedOpcode (CmdWord.op w) := by
  refine ⟨fun h => (reservedOpcode_of_decode_error h).1, fun hreserved => ?_⟩
  cases h : decode w with
  | ok i =>
    rw [opcode_eq_of_decode_ok h] at hreserved
    exact absurd hreserved i.not_reservedOpcode_opcode
  | error e => rw [(reservedOpcode_of_decode_error h).2]

/-- A word with a command's opcode decodes, to a command with that opcode. -/
theorem decode_ok_of_opcode {w : CmdWord} {i : Instr} (hop : CmdWord.op w = i.opcode) :
    ∃ j : Instr, decode w = .ok j ∧ j.opcode = i.opcode := by
  cases h : decode w with
  | ok j => exact ⟨j, rfl, (opcode_eq_of_decode_ok h).symm.trans hop⟩
  | error e =>
    have hreserved := (reservedOpcode_of_decode_error h).1
    rw [hop] at hreserved
    exact absurd hreserved i.not_reservedOpcode_opcode

/-! ### The encoder (R70, R71, R72) -/

/-- The per-command facts on the encoded word, for every command. -/
theorem encodedForm (i : Instr) : Laws.EncodedForm.Statement i := by
  cases i with
  | new => exact Laws.EncodedForm.new ..
  | selectBuffer => exact Laws.EncodedForm.selectBuffer ..
  | setRotation => exact Laws.EncodedForm.setRotation ..
  | setMirror => exact Laws.EncodedForm.setMirror ..
  | setBpp => exact Laws.EncodedForm.setBpp ..
  | setPixel => exact Laws.EncodedForm.setPixel ..
  | clear => exact Laws.EncodedForm.clear ..
  | clearRegion => exact Laws.EncodedForm.clearRegion ..
  | setColorBlock => exact Laws.EncodedForm.setColorBlock ..

@[simp] theorem op_encode (i : Instr) : CmdWord.op (encode i) = i.opcode := (encodedForm i).1

theorem canonical_encode (i : Instr) : CmdWord.canonical (encode i) = true := (encodedForm i).2

theorem take_operands_encode (i : Instr) :
    (CmdWord.operands (encode i)).take (usedFields i.opcode) = i.fields := by
  cases i
  all_goals simp [CmdWord.operands, Instr.fields, usedFields, Instr.opcode, encode]

theorem decode_encode (i : Instr) : decode (encode i) = .ok i :=
  decode_eq_ok_iff.mpr ⟨op_encode i, take_operands_encode i⟩

/-- Settles O1: the encoded word carries the opcode and the operands that decoding asks for. -/
theorem decodeOfEncodeIsTheCommand : Obligations.DecodeOfEncodeIsTheCommand :=
  fun i _ => decode_encode i

/-! ### Canonical words (R71) -/

theorem CmdWord.length_operands (w : CmdWord) : (CmdWord.operands w).length = 6 := rfl

/-- A word is its opcode and its six operand fields (R70). -/
theorem CmdWord.ext_operands {w w' : CmdWord} (hop : CmdWord.op w = CmdWord.op w')
    (hoperands : CmdWord.operands w = CmdWord.operands w') : w = w' := by
  simp only [CmdWord.operands, List.cons.injEq, and_true] at hoperands
  obtain ⟨h0, h1, h2, h3, h4, h5⟩ := hoperands
  rw [← packCommand_fields w, ← packCommand_fields w', hop, h0, h1, h2, h3, h4, h5]

/-- The unused fields of a canonical word are so many zeros. -/
theorem CmdWord.drop_operands_of_canonical {w : CmdWord} (h : CmdWord.canonical w = true) :
    (CmdWord.operands w).drop (usedFields (CmdWord.op w)) =
      List.replicate (6 - usedFields (CmdWord.op w)) 0 := by
  rw [CmdWord.canonical, Bool.and_eq_true, List.all_eq_true] at h
  rw [List.eq_replicate_iff, List.length_drop, CmdWord.length_operands]
  exact ⟨rfl, fun f hf => eq_of_beq (h.2 f hf)⟩

/-- Canonical words that decode to the same command are the same word. -/
theorem eq_of_decode_of_canonical {w w' : CmdWord} {i : Instr} (hw : CmdWord.canonical w = true)
    (hw' : CmdWord.canonical w' = true) (h : decode w = .ok i) (h' : decode w' = .ok i) : w = w' := by
  obtain ⟨hop, hused⟩ := decode_eq_ok_iff.mp h
  obtain ⟨hop', hused'⟩ := decode_eq_ok_iff.mp h'
  have hunused := CmdWord.drop_operands_of_canonical hw
  have hunused' := CmdWord.drop_operands_of_canonical hw'
  rw [hop] at hunused
  rw [hop'] at hunused'
  refine CmdWord.ext_operands (hop.trans hop'.symm) ?_
  rw [← List.take_append_drop (usedFields i.opcode) (CmdWord.operands w), hused, hunused, ← hused', ← hunused',
    List.take_append_drop]

/-- Settles O2: the word and the encoder's word are canonical and decode to the same command. -/
theorem encodeOfDecodeIsTheCanonicalWord : Obligations.EncodeOfDecodeIsTheCanonicalWord :=
  fun _ i hcanonical hdecode =>
    eq_of_decode_of_canonical (canonical_encode i) hcanonical (decode_encode i) hdecode

/-! ### Ignored fields, match and mask (R71) -/

/-- Decoding depends on the opcode and the used fields. -/
theorem decode_congr {w w' : CmdWord} (hop : CmdWord.op w = CmdWord.op w')
    (hused : (CmdWord.operands w).take (usedFields (CmdWord.op w)) =
      (CmdWord.operands w').take (usedFields (CmdWord.op w))) : decode w = decode w' := by
  cases h : decode w with
  | ok i =>
    obtain ⟨hopcode, hfields⟩ := decode_eq_ok_iff.mp h
    rw [hopcode, hfields] at hused
    exact (decode_eq_ok_iff.mpr ⟨hop.symm.trans hopcode, hused.symm⟩).symm
  | error e =>
    obtain ⟨hreserved, rfl⟩ := reservedOpcode_of_decode_error h
    rw [hop] at hreserved ⊢
    exact (decode_eq_error_iff.mpr hreserved).symm

theorem runWord_congr {w w' : CmdWord} (h : decode w = decode w') (s : State) : runWord w s = runWord w' s := by
  rw [runWord, runWord, h]

theorem wordAccesses_congr {w w' : CmdWord} (h : decode w = decode w') (s : State) :
    wordAccesses w s = wordAccesses w' s := by
  rw [wordAccesses, wordAccesses, h]

theorem CmdWord.setWidth_op (w : CmdWord) : (CmdWord.op w).setWidth 112 = w >>> 96 := by
  apply BitVec.eq_of_toNat_eq
  have hw := w.isLt
  rw [CmdWord.op, BitVec.toNat_setWidth, toNat_field, BitVec.toNat_ushiftRight, Nat.shiftRight_eq_div_pow]
  omega

/-- The opcode mask keeps the opcode, in its place. -/
theorem CmdWord.and_opMask (w : CmdWord) :
    w &&& 0xFFFF000000000000000000000000#112 = (CmdWord.op w).setWidth 112 <<< 96 := by
  have hmask : 0xFFFF000000000000000000000000#112 = BitVec.allOnes 112 <<< 96 := by decide
  rw [hmask, CmdWord.setWidth_op, BitVec.shiftLeft_ushiftRight]

theorem CmdWord.op_shiftLeft (op : Half) : CmdWord.op (op.setWidth 112 <<< 96) = op := by
  apply BitVec.eq_of_toNat_eq
  rw [CmdWord.op, toNat_field]
  simp [Nat.shiftLeft_eq]
  omega

theorem CmdWord.and_opMask_eq_iff {w : CmdWord} {op : Half} :
    w &&& 0xFFFF000000000000000000000000#112 = op.setWidth 112 <<< 96 ↔ CmdWord.op w = op := by
  rw [CmdWord.and_opMask]
  constructor
  · intro h
    rw [← CmdWord.op_shiftLeft (CmdWord.op w), h, CmdWord.op_shiftLeft]
  · rintro rfl
    rfl

theorem unused_encode (i : Instr) :
    ((CmdWord.operands (encode i)).drop (usedFields i.opcode)).all (fun f => f == 0) = true := by
  have h := canonical_encode i
  rw [CmdWord.canonical, Bool.and_eq_true, op_encode] at h
  exact h.2

/-- Settles O3: words that agree on opcode and used fields decode alike; the masked word shows the opcode, which
decides whether there is a command; and encoded words are canonical. -/
theorem decodeIgnoresUnusedFields : Obligations.DecodeIgnoresUnusedFields := by
  refine ⟨fun w w' hop hused => ?_, fun w i h => ?_, fun w i h => ?_, unused_encode⟩
  · have h : decode w = decode w' := decode_congr hop hused
    exact ⟨h, fun s => ⟨runWord_congr h s, wordAccesses_congr h s⟩⟩
  · exact CmdWord.and_opMask_eq_iff.mpr (opcode_eq_of_decode_ok h)
  · exact decode_ok_of_opcode (CmdWord.and_opMask_eq_iff.mp h)

/-! ### Reserved opcodes (R83) -/

theorem wordAccesses_of_decode_error {w : CmdWord} {e : DecodeError} (s : State) (h : decode w = .error e) :
    wordAccesses w s = [] := by
  rw [wordAccesses, h]

/-- Settles O4: a word without a command sets ILL_CMD and makes no access. -/
theorem reservedOpcodeSetsIllCmdOnly : Obligations.ReservedOpcodeSetsIllCmdOnly := by
  intro w
  refine ⟨decode_eq_error_iff, fun hreserved s => ?_⟩
  have h := decode_eq_error_iff.mpr hreserved
  exact ⟨runWord_of_decode_error s h, wordAccesses_of_decode_error s h⟩

/-! ### The worked encodings (R88) -/

/-- Settles O5: the encoder writes the four words, and what it writes decodes to its command. -/
theorem workedEncodings : Obligations.WorkedEncodings := by
  have hnew : encode (.new 0x00001000 8 8 0 0) = 0x0001000010000008000800000000 := by decide
  have hrotation : encode (.setRotation 90) = 0x0003005A00000000000000000000 := by decide
  have hpixel : encode (.setPixel 2 3 0xF0) = 0x00060002000300F0000000000000 := by decide
  have hregion : encode (.clearRegion 2 2 2 5 0) = 0x0008000200020002000500000000 := by decide
  refine ⟨hnew, ?_, hrotation, ?_, hpixel, ?_, hregion, ?_⟩
  · rw [← hnew, decode_encode]
  · rw [← hrotation, decode_encode]
  · rw [← hpixel, decode_encode]
  · rw [← hregion, decode_encode]

end Sys2Proof
end

section
/-! PROOFS. The written form of a command (30_encoding.md R86): the reader on what the printer writes.

A printed line is a mnemonic, a blank, and operands joined by commas, each of them a `PlainWord`: a word that neither
a comment, nor a comma, nor a blank can cut. `assembleLine_of_plainWords` reads such a line back into its words, and
`parseNumber_showHalf`, `parseNumber_showAddr` read each operand back into its value. -/

namespace Sys2Proof.Machine

open Sys2Proof

/-! ### Plain words -/

/-- A character that no rule of the line's form gives a meaning of its own. -/
def plainChar (c : Char) : Bool := c != ';' && c != ',' && !isBlank c

/-- A word of a line: not empty, and of plain characters only. -/
def PlainWord (l : List Char) : Prop := l ≠ [] ∧ ∀ c ∈ l, plainChar c = true

theorem plainChar_iff {c : Char} : plainChar c = true ↔ c ≠ ';' ∧ c ≠ ',' ∧ isBlank c = false := by
  simp [plainChar, and_assoc]

theorem PlainWord.ne_semicolon {l : List Char} (h : PlainWord l) : ∀ c ∈ l, c ≠ ';' :=
  fun c hc => (plainChar_iff.mp (h.2 c hc)).1

theorem PlainWord.ne_comma {l : List Char} (h : PlainWord l) : ∀ c ∈ l, c ≠ ',' :=
  fun c hc => (plainChar_iff.mp (h.2 c hc)).2.1

theorem PlainWord.not_blank {l : List Char} (h : PlainWord l) : ∀ c ∈ l, isBlank c = false :=
  fun c hc => (plainChar_iff.mp (h.2 c hc)).2.2

/-! ### Blanks round a word -/

/-- A line that begins and ends without a blank is trimmed already. -/
theorem trimBlanks_eq_self {l : List Char} (hhead : ∀ h : l ≠ [], isBlank (l.head h) = false)
    (hlast : ∀ h : l ≠ [], isBlank (l.getLast h) = false) : trimBlanks l = l := by
  have hleft : l.dropWhile isBlank = l := by
    cases l with
    | nil => rfl
    | cons c rest => exact List.dropWhile_cons_of_neg (by simpa using hhead (List.cons_ne_nil c rest))
  have hright : l.rdropWhile isBlank = l :=
    List.rdropWhile_eq_self_iff.mpr fun h => by simp [hlast h]
  calc trimBlanks l = (l.dropWhile isBlank).rdropWhile isBlank := rfl
    _ = l := by rw [hleft, hright]

theorem PlainWord.trimBlanks_eq {l : List Char} (h : PlainWord l) : trimBlanks l = l :=
  trimBlanks_eq_self (fun _ => h.not_blank _ (List.head_mem _)) (fun _ => h.not_blank _ (List.getLast_mem _))

theorem trimBlanks_blank_cons (l : List Char) : trimBlanks (' ' :: l) = trimBlanks l := rfl

/-! ### Operands between commas -/

theorem splitCommas_eq_singleton {l : List Char} (h : ∀ c ∈ l, c ≠ ',') : splitCommas l = [l] := by
  induction l with
  | nil => rfl
  | cons c rest ih =>
    rw [List.forall_mem_cons] at h
    rw [splitCommas, ih h.2, beq_false_of_ne h.1]

theorem splitCommas_append_comma {l : List Char} (rest : List Char) (h : ∀ c ∈ l, c ≠ ',') :
    splitCommas (l ++ ',' :: rest) = l :: splitCommas rest := by
  induction l with
  | nil => rfl
  | cons c l ih =>
    rw [List.forall_mem_cons] at h
    rw [List.cons_append, splitCommas, ih h.2, beq_false_of_ne h.1]

theorem ne_comma_of_blank_cons {l : List Char} (h : PlainWord l) : ∀ c ∈ ' ' :: l, c ≠ ',' :=
  List.forall_mem_cons.mpr ⟨by decide, h.ne_comma⟩

/-- Joined operands, after the blank that ends the mnemonic, split back into the operands. -/
theorem split_joinCommas {words : List (List Char)} (hne : words ≠ []) (h : ∀ a ∈ words, PlainWord a) :
    (splitCommas (' ' :: joinCommas words)).map trimBlanks = words := by
  induction words with
  | nil => exact absurd rfl hne
  | cons a rest ih =>
    obtain ⟨ha, hrest⟩ := List.forall_mem_cons.mp h
    have htrim : trimBlanks (' ' :: a) = a := (trimBlanks_blank_cons a).trans ha.trimBlanks_eq
    cases rest with
    | nil =>
      rw [joinCommas, splitCommas_eq_singleton (ne_comma_of_blank_cons ha), List.map_singleton, htrim]
    | cons b rest =>
      have hjoin : ' ' :: joinCommas (a :: b :: rest) = (' ' :: a) ++ ',' :: ' ' :: joinCommas (b :: rest) := by
        simp [joinCommas]
      rw [hjoin, splitCommas_append_comma _ (ne_comma_of_blank_cons ha), List.map_cons, htrim,
        ih (List.cons_ne_nil b rest) hrest]

theorem joinCommas_ne_nil {words : List (List Char)} (hne : words ≠ []) (h : ∀ a ∈ words, PlainWord a) :
    joinCommas words ≠ [] := by
  match words with
  | [] => exact absurd rfl hne
  | [a] => exact (h a List.mem_cons_self).1
  | a :: b :: rest => simp [joinCommas]

/-- A property of the separators and of every operand's characters holds along the joined operands. -/
theorem forall_mem_joinCommas {P : Char → Prop} (hcomma : P ',') (hblank : P ' ') {words : List (List Char)}
    (h : ∀ a ∈ words, ∀ c ∈ a, P c) : ∀ c ∈ joinCommas words, P c := by
  induction words with
  | nil => simp [joinCommas]
  | cons a rest ih =>
    obtain ⟨ha, hrest⟩ := List.forall_mem_cons.mp h
    cases rest with
    | nil => exact ha
    | cons b rest =>
      simp only [joinCommas, List.mem_append, List.mem_cons, List.not_mem_nil, or_false]
      rintro c ((hc | rfl | rfl) | hc)
      · exact ha c hc
      · exact hcomma
      · exact hblank
      · exact ih hrest c hc

theorem getLast_joinCommas_not_blank {words : List (List Char)} (h : ∀ a ∈ words, PlainWord a)
    (hne : joinCommas words ≠ []) : isBlank ((joinCommas words).getLast hne) = false := by
  induction words with
  | nil => exact absurd rfl hne
  | cons a rest ih =>
    obtain ⟨ha, hrest⟩ := List.forall_mem_cons.mp h
    cases rest with
    | nil => exact ha.not_blank _ (List.getLast_mem hne)
    | cons b rest =>
      have hne' := joinCommas_ne_nil (List.cons_ne_nil b rest) hrest
      simp only [joinCommas, List.getLast_append_of_ne_nil _ hne']
      exact ih hrest hne'

/-! ### A line of plain words -/

section

variable {mnemonic : List Char} {words : List (List Char)}

/-- No word and no separator holds a `;`. -/
theorem stripComment_plainWords (hmnemonic : PlainWord mnemonic) (hwords : ∀ a ∈ words, PlainWord a) :
    stripComment (mnemonic ++ ' ' :: joinCommas words) = mnemonic ++ ' ' :: joinCommas words := by
  have hoperands : ∀ c ∈ joinCommas words, c ≠ ';' :=
    forall_mem_joinCommas (by decide) (by decide) fun a ha => (hwords a ha).ne_semicolon
  refine List.takeWhile_eq_self_iff.mpr fun c hc => bne_iff_ne.mpr ?_
  rcases List.mem_append.mp hc with hc | hc
  · exact hmnemonic.ne_semicolon c hc
  · exact List.forall_mem_cons.mpr ⟨by decide, hoperands⟩ c hc

/-- The line begins with the mnemonic and ends with the last operand. -/
theorem trimBlanks_plainWords (hmnemonic : PlainWord mnemonic) (hne : words ≠ []) (hwords : ∀ a ∈ words, PlainWord a) :
    trimBlanks (mnemonic ++ ' ' :: joinCommas words) = mnemonic ++ ' ' :: joinCommas words := by
  have hjoin : joinCommas words ≠ [] := joinCommas_ne_nil hne hwords
  refine trimBlanks_eq_self (fun _ => ?_) (fun _ => ?_)
  · rw [List.head_append_of_ne_nil hmnemonic.1]
    exact hmnemonic.not_blank _ (List.head_mem _)
  · rw [List.getLast_append_of_ne_nil _ (List.cons_ne_nil _ _), List.getLast_cons hjoin]
    exact getLast_joinCommas_not_blank hwords hjoin

theorem PlainWord.takeWhile_append_blank (hmnemonic : PlainWord mnemonic) (rest : List Char) :
    (mnemonic ++ ' ' :: rest).takeWhile (fun c => !isBlank c) = mnemonic := by
  rw [List.takeWhile_append_of_pos (by simpa using hmnemonic.not_blank), List.takeWhile_cons_of_neg (by decide),
    List.append_nil]

theorem PlainWord.dropWhile_append_blank (hmnemonic : PlainWord mnemonic) (rest : List Char) :
    (mnemonic ++ ' ' :: rest).dropWhile (fun c => !isBlank c) = ' ' :: rest := by
  rw [List.dropWhile_append_of_pos (by simpa using hmnemonic.not_blank), List.dropWhile_cons_of_neg (by decide)]

/-- The reader finds the words of a line that has a mnemonic, a blank, and operands joined by commas. -/
theorem assembleLine_of_plainWords {i : Instr} (hmnemonic : PlainWord mnemonic) (hne : words ≠ [])
    (hwords : ∀ a ∈ words, PlainWord a) (h : assembleCommand mnemonic words = some i) :
    assembleLine (mnemonic ++ ' ' :: joinCommas words) = .ok (some i) := by
  rw [assembleLine, stripComment_plainWords hmnemonic hwords, trimBlanks_plainWords hmnemonic hne hwords]
  split
  next hnil => exact absurd hnil (List.append_ne_nil_of_left_ne_nil hmnemonic.1 _)
  next c rest hcons =>
    rw [← hcons, hmnemonic.takeWhile_append_blank, hmnemonic.dropWhile_append_blank, split_joinCommas hne hwords, h]

end

/-! ### Numbers -/

theorem plainChar_hexDigit {n : Nat} (h : n < 16) : plainChar (hexDigit n) = true := by
  revert n
  decide

theorem digitValue_hexDigit {n : Nat} (h : n < 16) : digitValue (hexDigit n) = some n := by
  revert n
  decide

/-- Reading on over a printed digit takes its value in. -/
theorem parseDigits_hexDigit {n : Nat} (h : n < 16) (acc : Nat) (rest : List Char) :
    parseDigits 16 acc (hexDigit n :: rest) = parseDigits 16 (acc * 16 + n) rest := by
  rw [parseDigits, digitValue_hexDigit h]
  exact if_pos h

/-- Four printed digits are a 16-bit value, on from the digits before them. -/
theorem parseDigits_drop_showHalf (v : Half) (acc : Nat) (rest : List Char) :
    parseDigits 16 acc ((showHalf v).drop 2 ++ rest) = parseDigits 16 (acc * 2 ^ 16 + v.toNat) rest := by
  have hmod (n : Nat) : n % 16 < 16 := Nat.mod_lt n (by decide)
  simp only [showHalf, List.drop_succ_cons, List.drop_zero, List.cons_append, List.nil_append,
    parseDigits_hexDigit (hmod _)]
  congr 1
  have hv := v.isLt
  omega

theorem parseNumber_showHalf (v : Half) : parseNumber (showHalf v) = some v.toNat := by
  calc parseNumber (showHalf v) = parseDigits 16 0 ((showHalf v).drop 2 ++ []) := rfl
    _ = some v.toNat := by rw [parseDigits_drop_showHalf, parseDigits, Nat.zero_mul, Nat.zero_add]

/-- The two halves, high half first (R73). -/
theorem parseNumber_showAddr (v : Addr) : parseNumber (showAddr v) = some v.toNat := by
  have hv : (bufOf (bufHi v) (bufLo v)).toNat = (bufHi v).toNat * 2 ^ 16 + (bufLo v).toNat := by
    rw [bufOf, BitVec.toNat_append, ← Nat.shiftLeft_add_eq_or_of_lt (bufLo v).isLt, Nat.shiftLeft_eq]
  calc parseNumber (showAddr v)
      = parseDigits 16 0 ((showHalf (bufHi v)).drop 2 ++ ((showHalf (bufLo v)).drop 2 ++ [])) := rfl
    _ = some ((bufHi v).toNat * 2 ^ 16 + (bufLo v).toNat) := by
      rw [parseDigits_drop_showHalf, parseDigits_drop_showHalf, parseDigits, Nat.zero_mul, Nat.zero_add]
    _ = some v.toNat := by rw [← hv, bufOf_halves]

@[simp] theorem parseHalf_showHalf (v : Half) : parseHalf (showHalf v) = some v := by
  simp only [parseHalf, parseNumber_showHalf, if_pos v.isLt, BitVec.ofNat_toNat, BitVec.setWidth_eq]

@[simp] theorem parseAddr_showAddr (v : Addr) : parseAddr (showAddr v) = some v := by
  simp only [parseAddr, parseNumber_showAddr, if_pos v.isLt, BitVec.ofNat_toNat, BitVec.setWidth_eq]

/-- A printed number begins with a digit, so it is none of the four names. -/
@[simp] theorem parseMirror_showHalf (v : Half) : parseMirror (showHalf v) = some v := by
  have hname {c : Char} {rest : List Char} (hc : '0' ≠ c) : showHalf v ≠ c :: rest :=
    fun h => hc (List.cons.inj h).1
  simp [parseMirror, asmNone, asmHorizontal, asmVertical, asmBoth, hname]

theorem plainWord_showHalf (v : Half) : PlainWord (showHalf v) := by
  have hdigit (n : Nat) : plainChar (hexDigit (n % 16)) = true := plainChar_hexDigit (Nat.mod_lt n (by decide))
  have hlead : plainChar '0' = true ∧ plainChar 'x' = true := by decide
  exact ⟨List.cons_ne_nil _ _, by simp [showHalf, hdigit, hlead]⟩

theorem plainWord_showAddr (v : Addr) : PlainWord (showAddr v) := by
  refine ⟨List.cons_ne_nil _ _, fun c hc => ?_⟩
  rcases List.mem_append.mp hc with hc | hc
  · exact (plainWord_showHalf _).2 c hc
  · exact (plainWord_showHalf _).2 c (List.mem_of_mem_drop hc)

/-! ### The printed command -/

/-- The mnemonic of a command (R86). -/
def mnemonicOf : Instr → List Char
  | .new _ _ _ _ _ => asmNew
  | .selectBuffer _ => asmSelectBuffer
  | .setRotation _ => asmSetRotation
  | .setMirror _ => asmSetMirror
  | .setBpp _ => asmSetBpp
  | .setPixel _ _ _ => asmSetPixel
  | .clear _ => asmClear
  | .clearRegion _ _ _ _ _ => asmClearRegion
  | .setColorBlock _ _ _ => asmSetColorBlock

/-- The operands of a command as the printer writes them, in the order of R72; a buffer address is one of them. -/
def operandWords : Instr → List (List Char)
  | .new buf width height rotation colorFlag =>
      [showAddr buf, showHalf width, showHalf height, showHalf rotation, showHalf colorFlag]
  | .selectBuffer buf => [showAddr buf]
  | .setRotation rotation => [showHalf rotation]
  | .setMirror mirror => [showHalf mirror]
  | .setBpp bpp => [showHalf bpp]
  | .setPixel x y color => [showHalf x, showHalf y, showHalf color]
  | .clear color => [showHalf color]
  | .clearRegion xStart yStart xEnd yEnd color =>
      [showHalf xStart, showHalf yStart, showHalf xEnd, showHalf yEnd, showHalf color]
  | .setColorBlock x y color => [showHalf x, showHalf y, showHalf color]

theorem showCommand_eq (i : Instr) : showCommand i = mnemonicOf i ++ ' ' :: joinCommas (operandWords i) := by
  cases i <;> rfl

theorem plainWord_mnemonicOf (i : Instr) : PlainWord (mnemonicOf i) := by
  cases i <;> exact ⟨List.cons_ne_nil _ _, List.all_eq_true.mp rfl⟩

theorem operandWords_ne_nil (i : Instr) : operandWords i ≠ [] := by
  cases i <;> exact List.cons_ne_nil _ _

theorem plainWord_of_mem_operandWords (i : Instr) : ∀ a ∈ operandWords i, PlainWord a := by
  cases i <;> simp [operandWords, plainWord_showHalf, plainWord_showAddr]

/-- No two mnemonics are alike, and each operand reads back as its value. -/
theorem assembleCommand_operandWords (i : Instr) : assembleCommand (mnemonicOf i) (operandWords i) = some i := by
  cases i
  all_goals
    simp [assembleCommand, mnemonicOf, operandWords, asmNew, asmSelectBuffer, asmSetRotation, asmSetMirror, asmSetBpp,
      asmSetPixel, asmClear, asmClearRegion, asmSetColorBlock]

/-- Settles O6: the printed line is one of plain words, and its words are the command's. -/
theorem assemblerReadsWhatItPrints : Obligations.AssemblerReadsWhatItPrints := by
  intro i
  rw [showCommand_eq]
  exact assembleLine_of_plainWords (plainWord_mnemonicOf i) (operandWords_ne_nil i)
    (plainWord_of_mem_operandWords i) (assembleCommand_operandWords i)

end Sys2Proof.Machine
end

section
/-! PROOFS. The coordinate mapper (41_coordinate_mapper.md): the physical coordinates of a pixel in the logical
rectangle are in range (R124), and ToLogical undoes ToPhysical (R126). -/

namespace Sys2Proof.Machine

open Sys2Proof

/-! ### One axis -/

/-- A mirrored axis stays in range. -/
theorem reflect_lt {n x : Half} (h : x < n) : n - x - 1 < n := by
  bv_omega

/-- Mirroring an axis is its own inverse, for every pair of values. -/
theorem reflect_reflect (n x : Half) : n - (n - x - 1) - 1 = x := by
  bv_omega

/-! ### Both axes: range (R121, R122, R124) -/

theorem rotateStage_lt {s : State} {x y : Half} (h : s.inLogical x y) :
    (rotateStage s x y).1 < s.wm ∧ (rotateStage s x y).2 < s.hm := by
  obtain ⟨hx, hy⟩ := h
  unfold State.w at hx
  unfold State.h at hy
  unfold rotateStage
  cases hrot : s.rot <;> rw [hrot] at hx hy
  case deg0 => exact ⟨hx, hy⟩
  case deg90 => exact ⟨reflect_lt hy, hx⟩
  case deg180 => exact ⟨reflect_lt hx, reflect_lt hy⟩
  case deg270 => exact ⟨hy, reflect_lt hx⟩

theorem mirrorStage_lt {s : State} {xr yr : Half} (hx : xr < s.wm) (hy : yr < s.hm) :
    (mirrorStage s xr yr).1 < s.wm ∧ (mirrorStage s xr yr).2 < s.hm := by
  unfold mirrorStage
  cases s.mir
  case none => exact ⟨hx, hy⟩
  case horizontal => exact ⟨reflect_lt hx, hy⟩
  case vertical => exact ⟨hx, reflect_lt hy⟩
  case both => exact ⟨reflect_lt hx, reflect_lt hy⟩

/-- The physical bounds check of R150 never fails (R124, R125). -/
theorem toPhysical_lt {s : State} {x y : Half} (h : s.inLogical x y) :
    (toPhysical s x y).1 < s.wm ∧ (toPhysical s x y).2 < s.hm := by
  obtain ⟨hx, hy⟩ := rotateStage_lt h
  exact mirrorStage_lt hx hy

/-! ### Both axes: inverse (R126) -/

theorem mirrorStage_mirrorStage (s : State) (xr yr : Half) :
    mirrorStage s (mirrorStage s xr yr).1 (mirrorStage s xr yr).2 = (xr, yr) := by
  unfold mirrorStage
  cases s.mir <;> simp only [reflect_reflect]

theorem unrotateStage_rotateStage (s : State) (x y : Half) :
    unrotateStage s (rotateStage s x y).1 (rotateStage s x y).2 = (x, y) := by
  unfold unrotateStage rotateStage
  cases s.rot <;> simp only [reflect_reflect]

/-- ToLogical undoes ToPhysical, on every pair of coordinates. -/
theorem toLogical_toPhysical (s : State) (x y : Half) :
    toLogical s (toPhysical s x y).1 (toPhysical s x y).2 = (x, y) := by
  rw [toLogical, toPhysical, mirrorStage_mirrorStage, unrotateStage_rotateStage]

theorem toPhysical_injective {s : State} {x y x' y' : Half} (h : toPhysical s x y = toPhysical s x' y') :
    (x, y) = (x', y') := by
  rw [← toLogical_toPhysical s x y, h, toLogical_toPhysical]

end Sys2Proof.Machine
end

section
/-! PROOFS. The pixel packer (40_pixel_packer.md): where a pixel's field lies, what a masked write leaves in each field
of the byte, and what SET_PIXEL leaves in each pixel.

Two ideas carry it. A field is the byte under its mask, so reading after a masked write is a matter of masks that are
equal or disjoint (R106 to R108). A pixel is determined by its byte and its in-byte index, since the mapper is
one-to-one and a byte's offset gives its row (R101, 41_coordinate_mapper.md R126). -/

namespace Sys2Proof.Machine

open Sys2Proof

/-! ### The target of a pixel (42_framebuffer_commands.md R150) -/

theorem pixelTarget_of_inLogical {s : State} {x y : Half} (h : s.inLogical x y) :
    pixelTarget s x y =
      some (s.bufAddr (s.byteOffset (toPhysical s x y).1 (toPhysical s x y).2), (toPhysical s x y).1) := by
  obtain ⟨hxphys, hyphys⟩ := toPhysical_lt h
  rw [pixelTarget, if_neg (not_or.mpr ⟨BitVec.not_le.mpr h.1, BitVec.not_le.mpr h.2⟩),
    if_neg (not_or.mpr ⟨BitVec.not_le.mpr hxphys, BitVec.not_le.mpr hyphys⟩)]

theorem pixelTarget_of_not_inLogical {s : State} {x y : Half} (h : ¬ s.inLogical x y) : pixelTarget s x y = none :=
  pixelTarget_eq_none ((not_and_or.mp h).imp BitVec.not_lt.mp BitVec.not_lt.mp)

/-- Settles O30: the two branches of the logical check, the physical one never failing. -/
theorem pixelHasATargetExactlyInTheLogicalRectangle : Obligations.PixelHasATargetExactlyInTheLogicalRectangle := by
  intro s x y
  refine ⟨fun h => ?_, pixelTarget_of_not_inLogical⟩
  rw [pixelTarget_of_inLogical h, Bpp.toNat_operand, Nat.add_assoc]
  rfl

/-! ### The position of a field (R103, R104) -/

/-- A byte holds 8 / BPP fields. -/
theorem inByteIndex_lt (b : Bpp) (xPhys : Half) : inByteIndex b xPhys < 8 / b.bits :=
  Nat.mod_lt _ (Nat.div_pos b.bits_le_eight b.bits_pos)

/-- The selector is the position of the field's last bit, counted from the most significant one. -/
theorem selector_eq {b : Bpp} (hb : b ≠ .b8) (xPhys : Half) :
    selector b xPhys = inByteIndex b xPhys * b.bits + (b.bits - 1) := by
  cases b
  case b8 => exact absurd rfl hb
  case b1 | b2 | b4 => simp only [selector, inByteIndex, Bpp.bits]; omega

/-- The last field of a byte ends where the byte ends. -/
theorem fieldEnd_le (b : Bpp) (xPhys : Half) : inByteIndex b xPhys * b.bits + b.bits ≤ 8 := by
  calc inByteIndex b xPhys * b.bits + b.bits = (inByteIndex b xPhys + 1) * b.bits := (Nat.succ_mul _ _).symm
    _ ≤ 8 / b.bits * b.bits := Nat.mul_le_mul_right _ (inByteIndex_lt b xPhys)
    _ ≤ 8 := Nat.div_mul_le_self _ _

/-- In either order the field stays in the byte. -/
theorem fieldShift_le (o : PackOrder) (b : Bpp) (xPhys : Half) : fieldShift o b xPhys + b.bits ≤ 8 := by
  have hend := fieldEnd_le b xPhys
  cases o <;> simp only [fieldShift] <;> omega

/-- The fields of different in-byte indices lie at least a field apart. -/
theorem fieldShift_apart (o : PackOrder) {b : Bpp} {x x' : Half} (h : inByteIndex b x ≠ inByteIndex b x') :
    fieldShift o b x + b.bits ≤ fieldShift o b x' ∨ fieldShift o b x' + b.bits ≤ fieldShift o b x := by
  wlog hlt : inByteIndex b x < inByteIndex b x' generalizing x x'
  · exact (this h.symm (Nat.lt_of_le_of_ne (Nat.le_of_not_lt hlt) h.symm)).symm
  have hapart : inByteIndex b x * b.bits + b.bits ≤ inByteIndex b x' * b.bits := by
    rw [← Nat.succ_mul]
    exact Nat.mul_le_mul_right _ hlt
  have hend := fieldEnd_le b x'
  cases o <;> simp only [fieldShift] <;> omega

/-- The table of R104: the masks by in-byte index, at depths 4, 2 and 1, in both orders. -/
theorem maskTable :
    (∀ k < 2, ([0xF0, 0x0F] : List Byte)[k]? = some (Bpp.top .b4 >>> (k * 4)) ∧
      ([0x0F, 0xF0] : List Byte)[k]? = some (Bpp.top .b4 >>> (8 - 4 - k * 4))) ∧
    (∀ k < 4, ([0xC0, 0x30, 0x0C, 0x03] : List Byte)[k]? = some (Bpp.top .b2 >>> (k * 2)) ∧
      ([0x03, 0x0C, 0x30, 0xC0] : List Byte)[k]? = some (Bpp.top .b2 >>> (8 - 2 - k * 2))) ∧
    ∀ k < 8, ([0x80, 0x40, 0x20, 0x10, 0x08, 0x04, 0x02, 0x01] : List Byte)[k]? = some (Bpp.top .b1 >>> (k * 1)) ∧
      ([0x01, 0x02, 0x04, 0x08, 0x10, 0x20, 0x40, 0x80] : List Byte)[k]? = some (Bpp.top .b1 >>> (8 - 1 - k * 1)) := by
  decide

/-- Settles O31: the positions from the selector's equation and the field's end, the masks from the table. -/
theorem fieldPositions : Obligations.FieldPositions := by
  intro b x hb
  have hselector := selector_eq hb x
  have hend := fieldEnd_le b x
  have hbits := b.bits_pos
  obtain ⟨htable4, htable2, htable1⟩ := maskTable
  rw [Bpp.toNat_operand]
  simp only [fieldShift]
  refine ⟨hselector, trivial, hselector.symm, by omega, by omega, ?_, ?_, ?_⟩
  · rintro rfl
    exact htable4 _ (inByteIndex_lt .b4 x)
  · rintro rfl
    exact htable2 _ (inByteIndex_lt .b2 x)
  · rintro rfl
    exact htable1 _ (inByteIndex_lt .b1 x)

/-! ### The bits of a mask (R104, R107) -/

/-- Below depth 8, TOP(BPP) is the BPP most significant bits (30_encoding.md R79). -/
theorem getLsbD_top {b : Bpp} (hb : b ≠ .b8) (i : Nat) : b.top.getLsbD i = true ↔ 8 - b.bits ≤ i ∧ i < 8 := by
  by_cases hi : i < 8
  · cases b
    case b8 => exact absurd rfl hb
    case b1 | b2 | b4 => decide +revert
  · simp [BitVec.getLsbD_of_ge, hi, Nat.le_of_not_lt hi]

theorem getLsbD_fieldMask {b : Bpp} (hb : b ≠ .b8) (o : PackOrder) (xPhys : Half) (i : Nat) :
    (fieldMask o b xPhys).getLsbD i = true ↔
      8 - b.bits ≤ fieldShift o b xPhys + i ∧ fieldShift o b xPhys + i < 8 := by
  rw [fieldMask, BitVec.getLsbD_ushiftRight, getLsbD_top hb]

/-- Fields a field apart share no bit. -/
theorem fieldMask_and_eq_zero {b : Bpp} (hb : b ≠ .b8) (o : PackOrder) {x x' : Half}
    (h : inByteIndex b x ≠ inByteIndex b x') : fieldMask o b x &&& fieldMask o b x' = 0 := by
  have hapart := fieldShift_apart o h
  refine BitVec.eq_of_getLsbD_eq fun i _ => ?_
  rw [BitVec.getLsbD_and, BitVec.ofNat_eq_ofNat, BitVec.getLsbD_zero, Bool.and_eq_false_imp]
  intro hi
  rw [getLsbD_fieldMask hb] at hi
  rw [Bool.eq_false_iff, ne_eq, getLsbD_fieldMask hb]
  omega

/-- A column whose field holds bit `k` of the byte, counted from the least significant one. -/
def columnOfBit (o : PackOrder) (b : Bpp) (k : Nat) : Half :=
  match o with
  | .msbFirst => BitVec.ofNat 16 ((7 - k) / b.bits)
  | .lsbFirst => BitVec.ofNat 16 (k / b.bits)

theorem getLsbD_fieldMask_columnOfBit (o : PackOrder) {b : Bpp} (hb : b ≠ .b8) :
    ∀ k < 8, (columnOfBit o b k).toNat < 8 ∧ (fieldMask o b (columnOfBit o b k)).getLsbD k = true := by
  cases b
  case b8 => exact absurd rfl hb
  case b1 | b2 | b4 => cases o <;> decide

/-- Settles O32: fields a field apart, and the column of each bit. -/
theorem fieldsPartitionTheByte : Obligations.FieldsPartitionTheByte :=
  fun o _ hb => ⟨fun _ _ h => fieldMask_and_eq_zero hb o h,
    fun k hk => ⟨columnOfBit o _ k, getLsbD_fieldMask_columnOfBit o hb k hk⟩⟩

/-! ### A field after a masked write (R105, R106, R108) -/

/-- Moved back left, a mask is TOP(BPP) again: no bit of it left the byte. -/
theorem fieldMask_shiftLeft {b : Bpp} (hb : b ≠ .b8) (o : PackOrder) (xPhys : Half) :
    fieldMask o b xPhys <<< fieldShift o b xPhys = b.top := by
  have hshift := fieldShift_le o b xPhys
  refine BitVec.eq_of_getLsbD_eq fun i hi => ?_
  rw [Bool.eq_iff_iff, BitVec.getLsbD_shiftLeft, Bool.and_eq_true, Bool.and_eq_true, getLsbD_fieldMask hb,
    getLsbD_top hb, decide_eq_true_eq, Bool.not_eq_true', decide_eq_false_iff_not]
  omega

/-- Below depth 8, a field is the byte under its mask, moved to the left. -/
theorem readField_eq {b : Bpp} (hb : b ≠ .b8) (o : PackOrder) (xPhys : Half) (v : Byte) :
    readField o b xPhys v = (v &&& fieldMask o b xPhys) <<< fieldShift o b xPhys := by
  have hread : readField o b xPhys v = v <<< fieldShift o b xPhys &&& b.top := by
    cases b
    case b8 => exact absurd rfl hb
    case b1 | b2 | b4 => rfl
  rw [hread, BitVec.shiftLeft_and_distrib, fieldMask_shiftLeft hb]

theorem pixelColor_shift (o : PackOrder) (b : Bpp) (xPhys color : Half) :
    pixelColor b color >>> fieldShift o b xPhys = lowByte color >>> fieldShift o b xPhys &&& fieldMask o b xPhys :=
  BitVec.ushiftRight_and_distrib _ _ _

/-- A shift to the field's place drops none of the colour's top bits. -/
theorem pixelColor_shift_back {b : Bpp} (hb : b ≠ .b8) (o : PackOrder) (xPhys color : Half) :
    pixelColor b color >>> fieldShift o b xPhys <<< fieldShift o b xPhys = pixelColor b color := by
  rw [BitVec.shiftLeft_ushiftRight, pixelColor, BitVec.and_assoc, ← BitVec.shiftLeft_ushiftRight]
  exact congrArg _ (fieldMask_shiftLeft hb o xPhys)

/-- Under its own mask, the merged byte is the colour's top bits at the field's place. -/
theorem mergeField_and_fieldMask (o : PackOrder) (b : Bpp) (xPhys color : Half) (old : Byte) :
    mergeField o b xPhys color old &&& fieldMask o b xPhys = pixelColor b color >>> fieldShift o b xPhys := by
  rw [mergeField, pixelColor_shift, BitVec.and_or_distrib_right, BitVec.and_assoc, BitVec.not_and_self,
    BitVec.ofNat_eq_ofNat, BitVec.and_zero, BitVec.zero_or, BitVec.and_assoc, BitVec.and_self]

/-- Under a mask that shares no bit with the field's, the merged byte is the old one. -/
theorem mergeField_and_of_disjoint {o : PackOrder} {b : Bpp} {xPhys : Half} {mask : Byte}
    (h : fieldMask o b xPhys &&& mask = 0) (color : Half) (old : Byte) :
    mergeField o b xPhys color old &&& mask = old &&& mask := by
  have hnot : ~~~fieldMask o b xPhys &&& mask = mask := by
    rw [← BitVec.zero_or (x := ~~~fieldMask o b xPhys &&& mask), ← BitVec.ofNat_eq_ofNat, ← h,
      ← BitVec.and_or_distrib_right, BitVec.or_not_self, BitVec.allOnes_and]
  rw [mergeField, pixelColor_shift, BitVec.and_or_distrib_right, BitVec.and_assoc, hnot, BitVec.and_assoc, h,
    BitVec.ofNat_eq_ofNat, BitVec.and_zero, BitVec.or_zero]

theorem storedByte_of_b8 {s : State} (hb : s.bpp = .b8) (xPhys color : Half) (old : Byte) :
    storedByte s xPhys color old = pixelColor .b8 color := by
  rw [storedByte, hb]

theorem storedByte_of_ne_b8 {s : State} (hb : s.bpp ≠ .b8) (xPhys color : Half) (old : Byte) :
    storedByte s xPhys color old = mergeField s.cfg.packOrder s.bpp xPhys color old := by
  unfold storedByte
  cases hbpp : s.bpp
  case b8 => exact absurd hbpp hb
  case b1 | b2 | b4 => rfl

/-- The field that a pixel write stored reads the colour's top bits. -/
theorem readField_storedByte_same (s : State) (xPhys color : Half) (old : Byte) :
    readField s.cfg.packOrder s.bpp xPhys (storedByte s xPhys color old) = pixelColor s.bpp color := by
  by_cases hb : s.bpp = .b8
  · rw [storedByte_of_b8 hb, hb]
    rfl
  · rw [storedByte_of_ne_b8 hb, readField_eq hb, mergeField_and_fieldMask, pixelColor_shift_back hb]

/-- The fields of the other in-byte indices read what they did; at depth 8 there is no other. -/
theorem readField_storedByte_other {s : State} {xPhys xPhys' : Half}
    (h : inByteIndex s.bpp xPhys ≠ inByteIndex s.bpp xPhys') (color : Half) (old : Byte) :
    readField s.cfg.packOrder s.bpp xPhys' (storedByte s xPhys color old) =
      readField s.cfg.packOrder s.bpp xPhys' old := by
  have hb : s.bpp ≠ .b8 := by
    intro hb
    rw [hb] at h
    exact h ((Nat.mod_one _).trans (Nat.mod_one _).symm)
  rw [storedByte_of_ne_b8 hb, readField_eq hb, readField_eq hb,
    mergeField_and_of_disjoint (fieldMask_and_eq_zero hb _ h)]

/-! ### A pixel is its byte and its in-byte index (R101, R103) -/

theorem State.byteOffset_inj {s : State} {x y x' y' : Half} (hx : x < s.wm) (hx' : x' < s.wm)
    (h : s.byteOffset x y = s.byteOffset x' y') :
    x.toNat * s.bpp.bits / 8 = x'.toNat * s.bpp.bits / 8 ∧ y = y' := by
  have hrow := s.rowOffset_lt_wb hx
  have hrow' := s.rowOffset_lt_wb hx'
  unfold State.byteOffset at h
  have hbyte : x.toNat * s.bpp.bits / 8 = x'.toNat * s.bpp.bits / 8 := by
    have hmod := congrArg (· % s.wb) h
    simpa only [Nat.add_mul_mod_self_right, Nat.mod_eq_of_lt hrow, Nat.mod_eq_of_lt hrow'] using hmod
  rw [hbyte] at h
  exact ⟨hbyte, BitVec.eq_of_toNat_eq
    (Nat.eq_of_mul_eq_mul_right (Nat.zero_lt_of_lt hrow) (Nat.add_left_cancel h))⟩

theorem column_eq_of_byte_of_index {b : Bpp} {x x' : Half} (hbyte : x.toNat * b.bits / 8 = x'.toNat * b.bits / 8)
    (hindex : inByteIndex b x = inByteIndex b x') : x = x' := by
  refine BitVec.eq_of_toNat_eq ?_
  cases b <;> simp only [inByteIndex, Bpp.bits, Nat.reduceDiv] at hbyte hindex <;> omega

/-- No two pixels have the same byte and the same in-byte index. -/
theorem pixel_eq_of_target_of_index {s : State} {x y x' y' xPhys xPhys' : Half} {a : Addr}
    (h : pixelTarget s x y = some (a, xPhys)) (h' : pixelTarget s x' y' = some (a, xPhys'))
    (hindex : inByteIndex s.bpp xPhys = inByteIndex s.bpp xPhys') : (x, y) = (x', y') := by
  obtain ⟨-, -, hx, hy, rfl, ha⟩ := pixelTarget_eq_some h
  obtain ⟨-, -, hx', hy', rfl, ha'⟩ := pixelTarget_eq_some h'
  have hoffset := s.bufAddr_injOn (s.byteOffset_lt_bufSize hx hy) (s.byteOffset_lt_bufSize hx' hy')
    (ha.symm.trans ha')
  obtain ⟨hbyte, hrow⟩ := State.byteOffset_inj hx hx' hoffset
  exact toPhysical_injective (Prod.ext (column_eq_of_byte_of_index hbyte hindex) hrow)

/-! ### Every pixel after one pixel write (R107, R108) -/

theorem readPixel_setMem_of_target {s : State} {x y xPhys : Half} {a : Addr}
    (h : pixelTarget s x y = some (a, xPhys)) (m : Memory) :
    readPixel (s.setMem m) x y = some (readField s.cfg.packOrder s.bpp xPhys (m.read a)) := by
  have htarget : pixelTarget (s.setMem m) x y = some (a, xPhys) := h
  rw [readPixel, htarget]
  rfl

theorem readPixel_setMem_of_no_target {s : State} {x y : Half} (h : pixelTarget s x y = none) (m : Memory) :
    readPixel (s.setMem m) x y = none := by
  have htarget : pixelTarget (s.setMem m) x y = none := h
  rw [readPixel, htarget]

theorem pixelWrite_of_target {s : State} {p : Pixel} {xPhys : Half} {a : Addr}
    (h : pixelTarget s p.x p.y = some (a, xPhys)) (m : Memory) :
    pixelWrite s m p = m.write a (storedByte s xPhys p.color (m.read a)) := by
  rw [pixelWrite, h]
  exact writePixel_eq s a xPhys p.color m

/-- The pixel written reads the colour's top bits. -/
theorem readPixel_pixelWrite_same {s : State} {p : Pixel} (h : s.inLogical p.x p.y) (m : Memory) :
    readPixel (s.setMem (pixelWrite s m p)) p.x p.y = some (pixelColor s.bpp p.color) := by
  have htarget := pixelTarget_of_inLogical h
  rw [pixelWrite_of_target htarget, readPixel_setMem_of_target htarget, Memory.read_write_same,
    readField_storedByte_same]

/-- Every other pixel reads what it did: its byte is another, or the same one with another field. -/
theorem readPixel_pixelWrite_other {s : State} {p : Pixel} {x y : Half} (hne : (x, y) ≠ (p.x, p.y)) (m : Memory) :
    readPixel (s.setMem (pixelWrite s m p)) x y = readPixel (s.setMem m) x y := by
  rcases pixelWrite_cases s m p with ⟨-, hw⟩ | ⟨a, xPhys, htarget, hw⟩
  · rw [hw]
  rw [hw]
  cases htarget' : pixelTarget s x y with
  | none => rw [readPixel_setMem_of_no_target htarget', readPixel_setMem_of_no_target htarget']
  | some target =>
    obtain ⟨a', xPhys'⟩ := target
    rw [readPixel_setMem_of_target htarget', readPixel_setMem_of_target htarget']
    by_cases ha : a' = a
    · subst ha
      have hindex : inByteIndex s.bpp xPhys ≠ inByteIndex s.bpp xPhys' :=
        fun hindex => hne (pixel_eq_of_target_of_index htarget htarget' hindex).symm
      rw [Memory.read_write_same, readField_storedByte_other hindex]
    · rw [Memory.read_write_other m _ ha]

/-! ### SET_PIXEL (42_framebuffer_commands.md R151) -/

theorem exec_setPixel (x y color : Half) (s : State) :
    exec (.setPixel x y color) s = .next (s.setMem (pixelWrite s s.mem ⟨x, y, color⟩)) := rfl

theorem commandAccesses_setPixel (x y color : Half) (s : State) :
    commandAccesses (.setPixel x y color) s = pixelAccesses s s.mem ⟨x, y, color⟩ :=
  List.append_nil _

/-- Settles O35: one pixel write, read at its own pixel and at every other. -/
theorem setPixelThenReadEveryPixel : Obligations.SetPixelThenReadEveryPixel := by
  intro s x y color h
  exact ⟨_, exec_setPixel x y color s, readPixel_pixelWrite_same h s.mem,
    fun x' y' hne => readPixel_pixelWrite_other hne s.mem⟩

/-- At depth 8 one write of the new byte (R105). -/
theorem pixelAccesses_of_b8 {s : State} (hb : s.bpp = .b8) {p : Pixel} {xPhys : Half} {a : Addr}
    (h : pixelTarget s p.x p.y = some (a, xPhys)) (m : Memory) :
    pixelAccesses s m p = [.write a (storedByte s xPhys p.color (m.read a))] := by
  rw [pixelAccesses, h]
  unfold writePixelAccesses storedByte
  rw [hb]

/-- Below depth 8 one read, then one write of the new byte (R106). -/
theorem pixelAccesses_of_ne_b8 {s : State} (hb : s.bpp ≠ .b8) {p : Pixel} {xPhys : Half} {a : Addr}
    (h : pixelTarget s p.x p.y = some (a, xPhys)) (m : Memory) :
    pixelAccesses s m p = [.read a, .write a (storedByte s xPhys p.color (m.read a))] := by
  rw [pixelAccesses, h]
  unfold writePixelAccesses storedByte
  cases hbpp : s.bpp
  case b8 => exact absurd hbpp hb
  case b1 | b2 | b4 => rfl

/-- Settles O33: the byte stored at the target, by depth, and the accesses that store it. -/
theorem setPixelStoresOneField : Obligations.SetPixelStoresOneField := by
  intro s x y color a xPhys h
  have hwrite : pixelWrite s s.mem ⟨x, y, color⟩ = s.mem.write a (storedByte s xPhys color (s.mem.read a)) :=
    pixelWrite_of_target h s.mem
  have hread : (pixelWrite s s.mem ⟨x, y, color⟩).read a = storedByte s xPhys color (s.mem.read a) := by
    rw [hwrite, Memory.read_write_same]
  refine ⟨_, exec_setPixel x y color s, rfl, fun hb => ?_, fun hb => ?_, fun c hc => ?_, fun hb => ?_, fun hb => ?_⟩
  · exact hread.trans (storedByte_of_b8 hb _ _ _)
  · exact hread.trans (storedByte_of_ne_b8 hb _ _ _)
  · rw [State.setMem_mem, hwrite, Memory.read_write_other _ _ hc]
  · rw [commandAccesses_setPixel, pixelAccesses_of_b8 hb h, State.setMem_mem, hread]
  · rw [commandAccesses_setPixel, pixelAccesses_of_ne_b8 hb h, State.setMem_mem, hread]

end Sys2Proof.Machine
end

section
/-! PROOFS. The coordinate mapper (41_coordinate_mapper.md), its statements: the mapper is the document's integer
formulas (R124), it has ToLogical as its inverse on both sides (R126), and half a turn cancels both mirrors (R127).

Every stage is made of one operation on one axis, `n - x - 1`; what is proved of that operation carries over to the
rotation stage, then to the mirror stage, then to the whole map. -/

namespace Sys2Proof.Machine

open Sys2Proof

/-! ### The stages over the integers (R121, R122, R124) -/

/-- The rotation stage of `toPhysicalExact`. -/
def rotateStageExact (s : State) (x y : Int) : Int × Int :=
  match s.rot with
  | .deg0 => (x, y)
  | .deg90 => (s.wm.toNat - y - 1, x)
  | .deg180 => (s.wm.toNat - x - 1, s.hm.toNat - y - 1)
  | .deg270 => (y, s.hm.toNat - x - 1)

/-- The mirror stage of `toPhysicalExact`. -/
def mirrorStageExact (s : State) (r : Int × Int) : Int × Int :=
  match s.mir with
  | .none => r
  | .horizontal => (s.wm.toNat - r.1 - 1, r.2)
  | .vertical => (r.1, s.hm.toNat - r.2 - 1)
  | .both => (s.wm.toNat - r.1 - 1, s.hm.toNat - r.2 - 1)

theorem toPhysicalExact_eq_stages (s : State) (x y : Int) :
    toPhysicalExact s x y = mirrorStageExact s (rotateStageExact s x y) := rfl

/-- A pair of coordinates as integers. -/
def toInts (p : Half × Half) : Int × Int := (p.1.toNat, p.2.toNat)

/-- Mirroring an axis does not wrap in range. -/
theorem toNat_reflect {n x : Half} (h : x < n) : ((n - x - 1).toNat : Int) = n.toNat - x.toNat - 1 := by
  bv_omega

theorem rotateStageExact_eq_rotateStage {s : State} {x y : Half} (h : s.inLogical x y) :
    rotateStageExact s x.toNat y.toNat = toInts (rotateStage s x y) := by
  obtain ⟨hx, hy⟩ := h
  unfold State.w at hx
  unfold State.h at hy
  unfold rotateStage rotateStageExact toInts
  cases hrot : s.rot <;> simp only [hrot] at hx hy
  case deg0 => rfl
  case deg90 => simp only [toNat_reflect hy]
  case deg180 => simp only [toNat_reflect hx, toNat_reflect hy]
  case deg270 => simp only [toNat_reflect hx]

theorem mirrorStageExact_eq_mirrorStage {s : State} {xr yr : Half} (hx : xr < s.wm) (hy : yr < s.hm) :
    mirrorStageExact s (toInts (xr, yr)) = toInts (mirrorStage s xr yr) := by
  unfold mirrorStage mirrorStageExact toInts
  cases s.mir
  case none => rfl
  case horizontal => simp only [toNat_reflect hx]
  case vertical => simp only [toNat_reflect hy]
  case both => simp only [toNat_reflect hx, toNat_reflect hy]

theorem toPhysicalExact_eq_toPhysical {s : State} {x y : Half} (h : s.inLogical x y) :
    toPhysicalExact s x.toNat y.toNat = toInts (toPhysical s x y) := by
  obtain ⟨hxr, hyr⟩ := rotateStage_lt h
  rw [toPhysicalExact_eq_stages, rotateStageExact_eq_rotateStage h, mirrorStageExact_eq_mirrorStage hxr hyr, toPhysical]

/-- Settles O27: neither stage wraps in the logical rectangle, and both stay in range. -/
theorem toPhysicalIsExactAndInRange : Obligations.ToPhysicalIsExactAndInRange := by
  intro s x y h
  rw [toPhysicalExact_eq_toPhysical h]
  exact ⟨rfl, rfl, toPhysical_lt h⟩

/-! ### ToLogical as a right inverse (R126) -/

theorem unrotateStage_inLogical {s : State} {xr yr : Half} (hx : xr < s.wm) (hy : yr < s.hm) :
    s.inLogical (unrotateStage s xr yr).1 (unrotateStage s xr yr).2 := by
  unfold State.inLogical State.w State.h unrotateStage
  cases s.rot
  case deg0 => exact ⟨hx, hy⟩
  case deg90 => exact ⟨hy, reflect_lt hx⟩
  case deg180 => exact ⟨reflect_lt hx, reflect_lt hy⟩
  case deg270 => exact ⟨reflect_lt hy, hx⟩

theorem toLogical_inLogical {s : State} {xp yp : Half} (hx : xp < s.wm) (hy : yp < s.hm) :
    s.inLogical (toLogical s xp yp).1 (toLogical s xp yp).2 := by
  obtain ⟨hxr, hyr⟩ := mirrorStage_lt hx hy
  exact unrotateStage_inLogical hxr hyr

theorem rotateStage_unrotateStage (s : State) (xr yr : Half) :
    rotateStage s (unrotateStage s xr yr).1 (unrotateStage s xr yr).2 = (xr, yr) := by
  unfold rotateStage unrotateStage
  cases s.rot <;> simp only [reflect_reflect]

/-- ToPhysical undoes ToLogical, on every pair of coordinates. -/
theorem toPhysical_toLogical (s : State) (xp yp : Half) :
    toPhysical s (toLogical s xp yp).1 (toLogical s xp yp).2 = (xp, yp) := by
  rw [toPhysical, toLogical, rotateStage_unrotateStage, mirrorStage_mirrorStage]

/-- Settles O28: each map lands in the other's rectangle and undoes the other. -/
theorem toPhysicalIsABijection : Obligations.ToPhysicalIsABijection := by
  intro s
  refine ⟨fun x y h => ?_, fun xp yp hx hy => ⟨toLogical_inLogical hx hy, toPhysical_toLogical s xp yp⟩⟩
  obtain ⟨hxp, hyp⟩ := toPhysical_lt h
  exact ⟨hxp, hyp, toLogical_toPhysical s x y⟩

/-! ### Half a turn and both mirrors (R127) -/

/-- The rotation half a turn on reflects both axes of the rotated pixel. -/
theorem rotateStage_opposite (s : State) (x y : Half) :
    rotateStage (s.setRot s.rot.opposite) x y =
      (s.wm - (rotateStage s x y).1 - 1, s.hm - (rotateStage s x y).2 - 1) := by
  simp only [rotateStage, State.setRot]
  cases s.rot <;> simp only [Rotation.opposite, reflect_reflect]

/-- The contrary mirror takes the reflection of both axes back. -/
theorem mirrorStage_opposite (s : State) (xr yr : Half) :
    mirrorStage (s.setMir s.mir.opposite) (s.wm - xr - 1) (s.hm - yr - 1) = mirrorStage s xr yr := by
  simp only [mirrorStage, State.setMir]
  cases s.mir <;> simp only [Mirror.opposite, reflect_reflect]

/-- The rotation stage reads no MIR, the mirror stage no ROT. -/
theorem toPhysical_setMir_setRot (s : State) (r : Rotation) (m : Mirror) (x y : Half) :
    toPhysical ((s.setRot r).setMir m) x y =
      mirrorStage (s.setMir m) (rotateStage (s.setRot r) x y).1 (rotateStage (s.setRot r) x y).2 := rfl

/-- Settles O29: the reflection of both axes the rotation brings in, the mirror takes back. -/
theorem halfTurnAndBothMirrorsCancel : Obligations.HalfTurnAndBothMirrorsCancel := by
  intro s x y
  calc toPhysical ((s.setRot s.rot.opposite).setMir s.mir.opposite) x y
    _ = mirrorStage (s.setMir s.mir.opposite) (s.wm - (rotateStage s x y).1 - 1)
          (s.hm - (rotateStage s x y).2 - 1) := by
        rw [toPhysical_setMir_setRot, rotateStage_opposite]
    _ = toPhysical s x y := mirrorStage_opposite s _ _

end Sys2Proof.Machine
end

section
/-! PROOFS. The configuration commands (42_framebuffer_commands.md R140 to R145), and that every command completes
(R158).

The two facts that carry them: an operand is accepted exactly when it is the operand of a value of the register, and a
command leads to one of the seven outcomes of `CommandOutcome`, of which a configuration command has its own register
write or rejection. -/

namespace Sys2Proof.Machine

open Sys2Proof

/-! ### The validated operands are those of the registers' values (30_encoding.md R75 to R77) -/

@[simp] theorem Rotation.ofDegrees_degrees (r : Rotation) : Rotation.ofDegrees r.degrees = some r := by
  cases r <;> rfl

@[simp] theorem Mirror.ofOperand_operand (m : Mirror) : Mirror.ofOperand m.operand = some m := by
  cases m <;> rfl

@[simp] theorem Bpp.ofOperand_operand (b : Bpp) : Bpp.ofOperand b.operand = some b := by
  cases b <;> rfl

theorem not_rotationAccepted_of_ne {v : Half} (h : ∀ r : Rotation, v ≠ r.degrees) : ¬ rotationAccepted v := by
  rintro (hv | hv | hv | hv)
  · exact h .deg0 hv
  · exact h .deg90 hv
  · exact h .deg180 hv
  · exact h .deg270 hv

theorem not_mirrorAccepted_of_le {v : Half} (h : 4 ≤ v) : ¬ mirrorAccepted v := by
  rintro (rfl | rfl | rfl | rfl) <;> exact absurd h (by decide)

theorem not_bppAccepted_of_ne {v : Half} (h : ∀ b : Bpp, v ≠ b.operand) : ¬ bppAccepted v := by
  rintro (hv | hv | hv | hv)
  · exact h .b1 hv
  · exact h .b2 hv
  · exact h .b4 hv
  · exact h .b8 hv

/-! ### The derived values that follow the geometry (10_state.md R31 to R34) -/

/-- At depth 8 a row has one byte per pixel. -/
theorem State.wb_of_b8 {s : State} (h : s.bpp = .b8) : s.wb = s.wm.toNat := by
  rw [State.wb, h, Bpp.bits]
  omega

theorem State.grayScale_of_b8 {s : State} (h : s.bpp = .b8) : s.grayScale = 256 := by
  rw [State.grayScale, h]
  rfl

/-! ### The obligations, command by command -/

/-- Settles O15: the outcome of an accepted NEW has depth 8 and the new rotation, which give the derived values. -/
theorem newCommand : Obligations.NewCommand := by
  intro s buf width height colorFlag
  refine ⟨fun r => ?_, fun rotation h => ?_, fun rotation => rfl⟩
  · have hexec := (CommandOutcome.new (s := s) (buf := buf) (width := width) (height := height) (f := colorFlag)
      r.ofDegrees_degrees).exec_eq
    have hwb : (s.setGeometry buf width height r colorFlag).wb = width.toNat := State.wb_of_b8 rfl
    obtain ⟨hupright, hsideways⟩ := logicalDimensionsFollowRotation (s.setGeometry buf width height r colorFlag)
    exact ⟨_, hexec, rfl, hwb, congrArg (· * height.toNat) hwb, State.grayScale_of_b8 rfl, hupright, hsideways⟩
  · exact exec_of_rejected s (decide_eq_false (not_rotationAccepted_of_ne h))

/-- Settles O16: it has no operand to reject, and makes no access. -/
theorem selectBufferCommand : Obligations.SelectBufferCommand :=
  fun s _ => ⟨CommandOutcome.selectBuffer.exec_eq, commandAccesses_of_not_draws s rfl⟩

/-- Settles O17: WB and BUF_SIZE do not read ROT, W and H follow it. -/
theorem setRotationCommand : Obligations.SetRotationCommand := by
  intro s
  refine ⟨fun r => ?_, fun rotation h => ?_, fun rotation => rfl⟩
  · obtain ⟨hupright, hsideways⟩ := logicalDimensionsFollowRotation (s.setRot r)
    exact ⟨_, (CommandOutcome.setRotation r.ofDegrees_degrees).exec_eq, rfl, s.setRot_wb r, s.setRot_bufSize r,
      hupright, hsideways⟩
  · exact exec_of_rejected s (decide_eq_false (not_rotationAccepted_of_ne h))

/-- Settles O18: the four operands are those of the four mirrors, and a rejected one is above them. -/
theorem setMirrorCommand : Obligations.SetMirrorCommand := by
  refine fun s => ⟨fun m => ?_, fun mirror h => ?_, fun mirror => rfl⟩
  · exact (CommandOutcome.setMirror m.ofOperand_operand).exec_eq
  · exact exec_of_rejected s (decide_eq_false (not_mirrorAccepted_of_le h))

/-- Settles O19: the derived values are those of the state with the new depth, whose number of bits is the operand. -/
theorem setBppCommand : Obligations.SetBppCommand := by
  refine fun s => ⟨fun b => ?_, fun bpp h => ?_, fun bpp => rfl⟩
  · rw [Bpp.toNat_operand]
    exact ⟨_, (CommandOutcome.setBpp b.ofOperand_operand).exec_eq, rfl, rfl, rfl, rfl⟩
  · exact exec_of_rejected s (decide_eq_false (not_bppAccepted_of_ne h))

/-- Only rejection writes STATUS. -/
theorem CommandOutcome.status_eq {s t : State} {i : Instr} (h : CommandOutcome s i t)
    (haccepted : i.operandsAccepted = true) : t.status = s.status := by
  cases h
  case rejected hrejected => cases haccepted.symm.trans hrejected
  case new | selectBuffer | setRotation | setMirror | setBpp | draws => rfl

/-- Settles O20: the rejected outcome, and STATUS in the others. -/
theorem rejectedConfigurationCommand : Obligations.RejectedConfigurationCommand := by
  refine fun i s => ⟨exec_of_rejected s, fun haccepted => ?_⟩
  obtain ⟨t, ht, houtcome⟩ := exec_outcome i s
  exact ⟨t, ht, houtcome.status_eq haccepted⟩

theorem CommandEffect.inputs_eq {s t : State} (h : CommandEffect s t) : t.inputs = s.inputs := by
  cases h <;> rfl

/-- Settles O50: the memory is what the accesses make of it, and there are none; no effect of a command reaches the
parameters or the pending events. -/
theorem configurationNeverTouchesMemory : Obligations.ConfigurationNeverTouchesMemory := by
  intro i s hdraws
  obtain ⟨t, ht, houtcome⟩ := exec_outcome i s
  have haccesses := commandAccesses_of_not_draws s hdraws
  have hmem : t.mem = s.mem := by
    rw [houtcome.mem_eq, haccesses]
    rfl
  exact ⟨t, ht, hmem, (exec_effect ht).cfg_eq, (exec_effect ht).inputs_eq, haccesses⟩

/-- Settles O52: an accepted or rejected operand, and each kind of event, has a next state. -/
theorem everyCommandCompletes : Obligations.EveryCommandCompletes :=
  ⟨exec_completes, step_completes⟩

end Sys2Proof.Machine
end

section
/-! PROOFS. What the drawing commands leave outside the buffer (42_framebuffer_commands.md R157), and CLEAR (R153). -/

namespace Sys2Proof.Machine

open Sys2Proof

/-! ### Outside the buffer range (20_memory.md R58, 42_framebuffer_commands.md R157) -/

theorem inBuffer_of_mem_commandAccesses {i : Instr} {s : State} {acc : Access} (h : acc ∈ commandAccesses i s) :
    s.inBuffer acc.addr = true :=
  (s.inBuffer_iff _).mpr (addr_of_mem_commandAccesses h)

/-- No command changes a byte outside the buffer range: it makes no access there. -/
theorem read_of_exec_of_not_inBuffer {i : Instr} {s t : State} (h : exec i s = .next t) {a : Addr}
    (ha : s.inBuffer a = false) : t.mem.read a = s.mem.read a := by
  obtain ⟨u, hu, houtcome⟩ := exec_outcome i s
  cases h.symm.trans hu
  rw [houtcome.mem_eq]
  refine performAll_read_unwritten _ _ fun v hwrite => ?_
  cases ha.symm.trans (inBuffer_of_mem_commandAccesses hwrite)

/-- Settles O49: the outcome of a drawing command, whose accesses all lie in the buffer range. -/
theorem drawingChangesOnlyTheBuffer : Obligations.DrawingChangesOnlyTheBuffer :=
  fun _ s hdraws => ⟨_, exec_of_draws s hdraws, rfl, fun _ => inBuffer_of_mem_commandAccesses,
    fun _ => read_of_exec_of_not_inBuffer (exec_of_draws s hdraws)⟩

/-! ### CLEAR (R153) -/

theorem exec_clear (color : Half) (s : State) :
    exec (.clear color) s = .next (s.setMem (fillBytes s (lowByte color) s.bufSize s.mem)) := rfl

theorem commandAccesses_clear (color : Half) (s : State) :
    commandAccesses (.clear color) s = (List.range s.bufSize).map fun i => .write (s.bufAddr i) (lowByte color) := by
  rw [commandAccesses, fillAccesses, forRange_zero]

theorem fillBytes_read_of_lt (s : State) (v : Byte) {i n : Nat} (m : Memory) (h : i < n) :
    (fillBytes s v n m).read (s.bufAddr i) = v := by
  rcases fillBytes_read s v n m (s.bufAddr i) with ⟨-, hread⟩ | ⟨hother, -⟩
  · exact hread
  · exact absurd rfl (hother i h)

/-- Settles O36: the fill reaches every offset below BUF_SIZE, and no command reaches a byte outside the buffer
range. -/
theorem clearFillsTheBuffer : Obligations.ClearFillsTheBuffer :=
  fun s color => ⟨_, exec_clear color s, rfl, fun _ hi => fillBytes_read_of_lt s _ s.mem hi,
    fun _ => read_of_exec_of_not_inBuffer (exec_clear color s), commandAccesses_clear color s⟩

/-- Settles O37: the fill reads BUF_BASE and BUF_SIZE, and neither depends on the three registers. -/
theorem clearIgnoresRotationAndMirror : Obligations.ClearIgnoresRotationAndMirror :=
  fun s color _ _ _ => ⟨_, exec_clear color s, exec_clear color _⟩

/-- Settles O38: the byte of a pixel of the logical rectangle is one of the bytes filled. -/
theorem clearThenReadEveryPixel : Obligations.ClearThenReadEveryPixel := by
  intro s color x y h
  obtain ⟨hx, hy⟩ := toPhysical_lt h
  refine ⟨_, exec_clear color s, ?_⟩
  rw [readPixel_setMem_of_target (pixelTarget_of_inLogical h),
    fillBytes_read_of_lt s _ s.mem (s.byteOffset_lt_bufSize hx hy)]
  rfl

end Sys2Proof.Machine
end

section
/-! PROOFS. Sequences of pixel writes (42_framebuffer_commands.md R154 to R156, 43_halftone.md R186): the dropped ones
may be left out, each pixel reads the colour last written to it, writes at distinct coordinates may be made in any
order, and the accesses are those of as many SET_PIXEL commands.

In order, the ideas: a dropped pixel makes no access and writes nothing; one pixel write is known at its own pixel and
at every other (`readPixel_pixelWrite_same`, `readPixel_pixelWrite_other`); two of them commute, since they store
different bytes or different fields of one byte. -/

namespace Sys2Proof.Machine

open Sys2Proof

/-! ### Dropped pixels may be left out (R155 (a), 60_exceptions.md R202, R203) -/

/-- The pixels of a list that lie in the logical rectangle. -/
def State.visible (s : State) (ps : List Pixel) : List Pixel := ps.filter fun p => decide (s.inLogical p.x p.y)

theorem State.visible_cons_of_inLogical {s : State} {p : Pixel} (ps : List Pixel) (h : s.inLogical p.x p.y) :
    s.visible (p :: ps) = p :: s.visible ps :=
  List.filter_cons_of_pos (decide_eq_true h)

theorem State.visible_cons_of_not_inLogical {s : State} {p : Pixel} (ps : List Pixel) (h : ¬ s.inLogical p.x p.y) :
    s.visible (p :: ps) = s.visible ps :=
  List.filter_cons_of_neg (by rwa [decide_eq_true_eq])

theorem State.visible_append (s : State) (ps qs : List Pixel) : s.visible (ps ++ qs) = s.visible ps ++ s.visible qs :=
  List.filter_append ps qs

theorem pixelWrite_of_not_inLogical {s : State} {p : Pixel} (h : ¬ s.inLogical p.x p.y) (m : Memory) :
    pixelWrite s m p = m := by
  rw [pixelWrite, pixelTarget_of_not_inLogical h]

theorem pixelAccesses_of_not_inLogical {s : State} {p : Pixel} (h : ¬ s.inLogical p.x p.y) (m : Memory) :
    pixelAccesses s m p = [] := by
  rw [pixelAccesses, pixelTarget_of_not_inLogical h]

theorem pixelsAccesses_visible (s : State) (ps : List Pixel) (m : Memory) :
    pixelsAccesses s m (s.visible ps) = pixelsAccesses s m ps := by
  induction ps generalizing m with
  | nil => rfl
  | cons p ps ih =>
    by_cases h : s.inLogical p.x p.y
    · rw [s.visible_cons_of_inLogical ps h, pixelsAccesses, pixelsAccesses, ih]
    · rw [s.visible_cons_of_not_inLogical ps h, pixelsAccesses, pixelAccesses_of_not_inLogical h,
        pixelWrite_of_not_inLogical h, List.nil_append, ih]

/-- The accesses are the same, and drawing performs the accesses. -/
theorem drawPixels_visible (s : State) (ps : List Pixel) : drawPixels s (s.visible ps) = drawPixels s ps := by
  rw [drawPixels, drawPixels, ← performAll_pixelsAccesses, ← performAll_pixelsAccesses, pixelsAccesses_visible]

/-! ### Every pixel after a sequence of pixel writes (R107, R108, R156) -/

theorem readPixel_foldl_pixelWrite_other {s : State} {ps : List Pixel} {x y : Half}
    (h : ∀ p ∈ ps, (x, y) ≠ (p.x, p.y)) (m : Memory) :
    readPixel (s.setMem (ps.foldl (pixelWrite s) m)) x y = readPixel (s.setMem m) x y := by
  induction ps generalizing m with
  | nil => rfl
  | cons p ps ih =>
    obtain ⟨hp, hps⟩ := List.forall_mem_cons.mp h
    rw [List.foldl_cons, ih hps, readPixel_pixelWrite_other hp]

/-- A pixel that is in no write reads what it did. -/
theorem readPixel_drawPixels_other {s : State} {ps : List Pixel} {x y : Half}
    (h : ∀ p ∈ ps, (x, y) ≠ (p.x, p.y)) : readPixel (drawPixels s ps) x y = readPixel s x y :=
  readPixel_foldl_pixelWrite_other h s.mem

/-- A pixel whose writes all have one colour reads that colour's top bits: the last of them stored it. -/
theorem readPixel_drawPixels_of_mem {s : State} {ps : List Pixel} {p : Pixel} (hvisible : s.inLogical p.x p.y)
    (hmem : p ∈ ps) (hcolor : ∀ q ∈ ps, (p.x, p.y) = (q.x, q.y) → q.color = p.color) :
    readPixel (drawPixels s ps) p.x p.y = some (pixelColor s.bpp p.color) := by
  induction ps using List.reverseRecOn with
  | nil => cases hmem
  | append_singleton ps q ih =>
    rw [drawPixels, List.foldl_concat]
    by_cases hq : (p.x, p.y) = (q.x, q.y)
    · obtain ⟨hx, hy⟩ := Prod.mk.inj hq
      rw [hx, hy] at hvisible ⊢
      rw [readPixel_pixelWrite_same hvisible, hcolor q (by simp) hq]
    · rw [readPixel_pixelWrite_other hq]
      have hp : p ∈ ps := by
        rcases List.mem_append.mp hmem with hp | hp
        · exact hp
        · exact absurd (by rw [List.mem_singleton.mp hp]) hq
      exact ih hp fun r hr => hcolor r (List.mem_append_left _ hr)

/-! ### The order of pixel writes (R155 (b), 43_halftone.md R186) -/

/-- Bits merged in under masks that share no bit may be merged in either order. -/
theorem merge_merge_comm {mask mask' : Byte} (h : mask &&& mask' = 0) (old v v' : Byte) :
    ((old &&& ~~~mask ||| v &&& mask) &&& ~~~mask') ||| v' &&& mask' =
      ((old &&& ~~~mask' ||| v' &&& mask') &&& ~~~mask) ||| v &&& mask := by
  refine BitVec.eq_of_getLsbD_eq fun i hi => ?_
  have hbit : (mask.getLsbD i && mask'.getLsbD i) = false := by
    rw [← BitVec.getLsbD_and, h, BitVec.ofNat_eq_ofNat, BitVec.getLsbD_zero]
  simp only [BitVec.getLsbD_or, BitVec.getLsbD_and, BitVec.getLsbD_not, hi, decide_true, Bool.true_and]
  revert hbit
  cases mask.getLsbD i <;> cases mask'.getLsbD i <;> simp

theorem mergeField_comm {o : PackOrder} {b : Bpp} (hb : b ≠ .b8) {xPhys xPhys' : Half}
    (h : inByteIndex b xPhys ≠ inByteIndex b xPhys') (color color' : Half) (old : Byte) :
    mergeField o b xPhys' color' (mergeField o b xPhys color old) =
      mergeField o b xPhys color (mergeField o b xPhys' color' old) := by
  simp only [mergeField, pixelColor_shift]
  exact merge_merge_comm (fieldMask_and_eq_zero hb o h) _ _ _

/-- At depth 8 a byte has one in-byte index. -/
theorem ne_b8_of_inByteIndex_ne {b : Bpp} {xPhys xPhys' : Half} (h : inByteIndex b xPhys ≠ inByteIndex b xPhys') :
    b ≠ .b8 := by
  rintro rfl
  exact h ((Nat.mod_one _).trans (Nat.mod_one _).symm)

/-- Stores of different fields of one byte commute. -/
theorem storedByte_comm {s : State} {xPhys xPhys' : Half}
    (h : inByteIndex s.bpp xPhys ≠ inByteIndex s.bpp xPhys') (color color' : Half) (old : Byte) :
    storedByte s xPhys' color' (storedByte s xPhys color old) =
      storedByte s xPhys color (storedByte s xPhys' color' old) := by
  have hb : s.bpp ≠ .b8 := ne_b8_of_inByteIndex_ne h
  simp only [storedByte_of_ne_b8 hb]
  exact mergeField_comm hb h color color' old

/-- Writes at distinct coordinates store different bytes, or different fields of one byte. -/
theorem pixelWrite_comm {s : State} {p q : Pixel} (hne : (p.x, p.y) ≠ (q.x, q.y)) {m : Memory} (hwf : m.wf = true) :
    pixelWrite s (pixelWrite s m p) q = pixelWrite s (pixelWrite s m q) p := by
  cases hp : pixelTarget s p.x p.y with
  | none => simp only [pixelWrite, hp]
  | some target =>
    cases hq : pixelTarget s q.x q.y with
    | none => simp only [pixelWrite, hq]
    | some target' =>
      obtain ⟨a, xPhys⟩ := target
      obtain ⟨a', xPhys'⟩ := target'
      by_cases ha : a = a'
      · subst ha
        have hindex : inByteIndex s.bpp xPhys ≠ inByteIndex s.bpp xPhys' :=
          fun hindex => hne (pixel_eq_of_target_of_index hp hq hindex)
        refine Memory.ext_read (pixelWrite_wf q (pixelWrite_wf p hwf)) (pixelWrite_wf p (pixelWrite_wf q hwf)) ?_
          fun c => ?_
        · simp only [pixelWrite_launch]
        · simp only [pixelWrite_of_target hp, pixelWrite_of_target hq, Memory.read_write, if_true]
          rw [storedByte_comm hindex]
          split <;> rfl
      · simp only [pixelWrite_of_target hp, pixelWrite_of_target hq, Memory.read_write_other m _ ha,
          Memory.read_write_other m _ (Ne.symm ha)]
        exact Memory.write_comm _ _ ha hwf

theorem foldl_pixelWrite_perm {s : State} {ps qs : List Pixel} (hperm : ps.Perm qs)
    (hdistinct : (ps.map fun p => (p.x, p.y)).Nodup) {m : Memory} (hwf : m.wf = true) :
    ps.foldl (pixelWrite s) m = qs.foldl (pixelWrite s) m := by
  induction hperm generalizing m with
  | nil => rfl
  | cons p _ ih => exact ih (List.nodup_cons.mp hdistinct).2 (pixelWrite_wf p hwf)
  | swap p q ps =>
    have hne : (q.x, q.y) ≠ (p.x, p.y) := by
      intro heq
      simp [heq] at hdistinct
    exact congrArg (ps.foldl (pixelWrite s)) (pixelWrite_comm hne hwf)
  | trans hperm _ ih ih' =>
    exact (ih hdistinct hwf).trans (ih' ((hperm.map _).nodup_iff.mp hdistinct) hwf)

/-- Settles O42: neighbours in the list may be exchanged, which makes every permutation. -/
theorem drawingOrderDoesNotMatter : Obligations.DrawingOrderDoesNotMatter :=
  fun s _ _ hwf hperm hdistinct => congrArg s.setMem (foldl_pixelWrite_perm hperm hdistinct hwf)

/-! ### Pixel writes as commands (R151, R155, R184, R186) -/

/-- The SET_PIXEL command that writes a pixel. -/
def Pixel.command (p : Pixel) : Instr := .setPixel p.x p.y p.color

/-- A sequence of pixel writes reads no memory but the one it is given. -/
theorem pixelsAccesses_setMem (s : State) (m m' : Memory) (ps : List Pixel) :
    pixelsAccesses (s.setMem m) m' ps = pixelsAccesses s m' ps := by
  induction ps generalizing m' with
  | nil => rfl
  | cons p ps ih => exact congrArg _ (ih _)

/-- SET_PIXEL commands in turn make the accesses of the sequence of their pixel writes. -/
theorem accessesInTurn_setPixels (ps : List Pixel) (s : State) :
    accessesInTurn (ps.map Pixel.command) s = pixelsAccesses s s.mem ps := by
  induction ps generalizing s with
  | nil => rfl
  | cons p ps ih =>
    rw [List.map_cons, Pixel.command, accessesInTurn_cons _ (exec_setPixel p.x p.y p.color s),
      commandAccesses_setPixel, ih, pixelsAccesses_setMem, State.setMem_mem, pixelsAccesses]

end Sys2Proof.Machine
end

section
/-! PROOFS. CLEAR_REGION (42_framebuffer_commands.md R154, R155): the loop that the model runs over the part of the
region inside the logical rectangle is the whole loop less its dropped pixels. After it the order of accesses of
CLEAR_REGION and of SET_COLOR_BLOCK (43_halftone.md R184, R186). -/

namespace Sys2Proof.Machine

open Sys2Proof

/-! ### The region's double loop (R154) -/

/-- One row of the region. -/
def regionRow (xStart xEnd y : Nat) (color : Half) : List Pixel :=
  (forRange xStart xEnd).map fun x => { x := BitVec.ofNat 16 x, y := BitVec.ofNat 16 y, color := color }

theorem regionPixels_eq_rows (xStart yStart xEnd yEnd : Nat) (color : Half) :
    regionPixels xStart yStart xEnd yEnd color =
      (forRange yStart yEnd).flatMap fun y => regionRow xStart xEnd y color := rfl

/-- A loop with a clipped end runs over the loop variables below the clip. -/
theorem forRange_min (a b n : Nat) : forRange a (min b n) = (forRange a b).filter fun k => decide (k < n) :=
  (List.Ico.filter_lt a b n).symm

theorem lt_of_mem_forRange {a k : Nat} {b : Half} (h : k ∈ forRange a b.toNat) : k < 2 ^ 16 :=
  ((mem_forRange a _ k).mp h).2.trans b.isLt

theorem ofNat_lt_iff {k : Nat} (hk : k < 2 ^ 16) (n : Half) : BitVec.ofNat 16 k < n ↔ k < n.toNat := by
  rw [BitVec.lt_def, BitVec.toNat_ofNat, Nat.mod_eq_of_lt hk]

/-- A row inside the logical rectangle loses its columns from W on. -/
theorem visible_regionRow_of_lt {s : State} {y : Nat} (hy : BitVec.ofNat 16 y < s.h) (xStart : Nat)
    (xEnd color : Half) :
    s.visible (regionRow xStart xEnd.toNat y color) = regionRow xStart (min xEnd.toNat s.w.toNat) y color := by
  rw [State.visible, regionRow, regionRow, List.filter_map, forRange_min]
  refine congrArg _ (List.filter_congr fun x hx => ?_)
  rw [Function.comp_apply, decide_eq_decide, ← ofNat_lt_iff (lt_of_mem_forRange hx)]
  exact and_iff_left hy

/-- A row below the logical rectangle loses every pixel. -/
theorem visible_regionRow_of_not_lt {s : State} {y : Nat} (hy : ¬ BitVec.ofNat 16 y < s.h) (xStart xEnd : Nat)
    (color : Half) : s.visible (regionRow xStart xEnd y color) = [] := by
  rw [State.visible, regionRow, List.filter_map, List.map_eq_nil_iff, List.filter_eq_nil_iff]
  exact fun x _ h => hy (of_decide_eq_true h).2

theorem visible_rows {s : State} {ys : List Nat} (hys : ∀ y ∈ ys, y < 2 ^ 16) (xStart : Nat) (xEnd color : Half) :
    s.visible (ys.flatMap fun y => regionRow xStart xEnd.toNat y color) =
      (ys.filter fun y => decide (y < s.h.toNat)).flatMap fun y =>
        regionRow xStart (min xEnd.toNat s.w.toNat) y color := by
  induction ys with
  | nil => rfl
  | cons y ys ih =>
    obtain ⟨hy, hys⟩ := List.forall_mem_cons.mp hys
    rw [List.flatMap_cons, State.visible_append, ih hys, List.filter_cons]
    by_cases hlt : y < s.h.toNat
    · rw [if_pos (decide_eq_true hlt), List.flatMap_cons, visible_regionRow_of_lt ((ofNat_lt_iff hy s.h).mpr hlt)]
    · rw [if_neg (by rwa [decide_eq_true_eq]), visible_regionRow_of_not_lt (by rwa [ofNat_lt_iff hy]),
        List.nil_append]

/-- The clipped loop is the whole loop less its dropped pixels. -/
theorem regionPixels_clipped (s : State) (xStart yStart : Nat) (xEnd yEnd color : Half) :
    regionPixels xStart yStart (min xEnd.toNat s.w.toNat) (min yEnd.toNat s.h.toNat) color =
      s.visible (regionPixels xStart yStart xEnd.toNat yEnd.toNat color) := by
  rw [regionPixels_eq_rows, regionPixels_eq_rows, visible_rows fun _ => lt_of_mem_forRange, forRange_min]

theorem exec_clearRegion (xStart yStart xEnd yEnd color : Half) (s : State) :
    exec (.clearRegion xStart yStart xEnd yEnd color) s =
      .next (drawPixels s (regionPixels xStart.toNat yStart.toNat xEnd.toNat yEnd.toNat color)) := by
  rw [← drawPixels_visible, ← regionPixels_clipped]
  rfl

theorem commandAccesses_clearRegion (xStart yStart xEnd yEnd color : Half) (s : State) :
    commandAccesses (.clearRegion xStart yStart xEnd yEnd color) s =
      pixelsAccesses s s.mem (regionPixels xStart.toNat yStart.toNat xEnd.toNat yEnd.toNat color) := by
  rw [commandAccesses, regionPixels_clipped, pixelsAccesses_visible]

/-- Settles O40: the dropped pixels, which the model leaves out, may be put back. -/
theorem clearRegionIsTheWholeLoop : Obligations.ClearRegionIsTheWholeLoop :=
  fun s xStart yStart xEnd yEnd color => exec_clearRegion xStart yStart xEnd yEnd color s

/-! ### CLEAR_REGION (R154) -/

/-- The ends are exclusive. -/
theorem mem_regionPixels {xStart yStart xEnd yEnd color : Half} {p : Pixel} :
    p ∈ regionPixels xStart.toNat yStart.toNat xEnd.toNat yEnd.toNat color ↔
      (xStart ≤ p.x ∧ p.x < xEnd ∧ yStart ≤ p.y ∧ p.y < yEnd) ∧ p.color = color := by
  rw [regionPixels, List.mem_flatMap]
  constructor
  · rintro ⟨y, hy, hp⟩
    obtain ⟨x, hx, rfl⟩ := List.mem_map.mp hp
    have hx16 := lt_of_mem_forRange hx
    have hy16 := lt_of_mem_forRange hy
    rw [mem_forRange] at hx hy
    refine ⟨⟨?_, (ofNat_lt_iff hx16 _).mpr hx.2, ?_, (ofNat_lt_iff hy16 _).mpr hy.2⟩, rfl⟩
    · rw [← BitVec.not_lt, ofNat_lt_iff hx16]
      exact Nat.not_lt.mpr hx.1
    · rw [← BitVec.not_lt, ofNat_lt_iff hy16]
      exact Nat.not_lt.mpr hy.1
  · rintro ⟨⟨hx, hx', hy, hy'⟩, rfl⟩
    refine ⟨p.y.toNat, (mem_forRange _ _ _).mpr ⟨hy, hy'⟩, List.mem_map.mpr ⟨p.x.toNat, ?_, ?_⟩⟩
    · exact (mem_forRange _ _ _).mpr ⟨hx, hx'⟩
    · simp only [BitVec.ofNat_toNat, BitVec.setWidth_eq]

/-- Settles O41: the pixels written are those of the region, all with the one colour. -/
theorem clearRegionThenReadEveryPixel : Obligations.ClearRegionThenReadEveryPixel := by
  intro s xStart yStart xEnd yEnd color
  have hexec := exec_clearRegion xStart yStart xEnd yEnd color s
  refine ⟨_, hexec, rfl, fun x y hvisible hregion => ?_, fun x y hregion => ?_,
    fun _ => read_of_exec_of_not_inBuffer hexec⟩
  · exact readPixel_drawPixels_of_mem (p := ⟨x, y, color⟩) hvisible (mem_regionPixels.mpr ⟨hregion, rfl⟩)
      fun q hq _ => (mem_regionPixels.mp hq).2
  · refine readPixel_drawPixels_other fun p hp hxy => hregion ?_
    obtain ⟨rfl, rfl⟩ := Prod.mk.inj hxy
    exact (mem_regionPixels.mp hp).1

/-! ### The order of accesses (R155 (b), R184, R186) -/

theorem map_command_regionPixels (xStart yStart xEnd yEnd : Nat) (color : Half) :
    (regionPixels xStart yStart xEnd yEnd color).map Pixel.command =
      (forRange yStart yEnd).flatMap fun y =>
        (forRange xStart xEnd).map fun x => .setPixel (BitVec.ofNat 16 x) (BitVec.ofNat 16 y) color := by
  simp only [regionPixels, List.map_flatMap, List.map_map]
  rfl

/-- A block coordinate computed over the integers is the one computed modulo 2^16 (R184). -/
theorem ofInt_sub_one_add (c : Half) (k : Nat) :
    BitVec.ofInt 16 ((c.toNat : Int) - 1 + (k : Nat)) = c - 1 + BitVec.ofNat 16 k := by
  have hone : BitVec.ofInt 16 (-1) = -1 := by decide
  rw [Int.sub_eq_add_neg, BitVec.ofInt_add, BitVec.ofInt_add, BitVec.ofInt_natCast, BitVec.ofInt_natCast, hone,
    BitVec.ofNat_toNat, BitVec.setWidth_eq, BitVec.sub_eq_add_neg]

/-- The nine commands of a block in one count: row k / 3, column k % 3 (R184, R186). -/
theorem map_command_blockPixels (s : State) (x y color : Half) :
    (blockPixels s x y color).map Pixel.command =
      (List.range 9).map fun k =>
        .setPixel (BitVec.ofInt 16 ((anchorX s.cfg.htSnap x).toNat - 1 + (k % 3 : Nat)))
          (BitVec.ofInt 16 ((anchorY s.cfg.htSnap y).toNat - 1 + (k / 3 : Nat)))
          (((expand color).toList.getD k 0).setWidth 16) := by
  simp only [ofInt_sub_one_add]
  rfl

/-- Settles O59: each command makes the accesses of its pixel writes, dropped ones included, and those are the
accesses of as many SET_PIXEL commands. -/
theorem pixelCommandsAccessMemoryInTheNormativeOrder : Obligations.PixelCommandsAccessMemoryInTheNormativeOrder := by
  refine ⟨fun s xStart yStart xEnd yEnd color => ?_, fun s x y color => ?_⟩
  · rw [commandAccesses_clearRegion, ← accessesInTurn_setPixels, map_command_regionPixels]
    rfl
  · rw [← map_command_blockPixels, accessesInTurn_setPixels]
    rfl

end Sys2Proof.Machine
end

section
/-! PROOFS. SET_COLOR_BLOCK (43_halftone.md): the intensities as numbers, the anchor, and the nine pixels of the block.

The anchor's two formulas are one fact about the table's residues (`add_snapOffset_default`). The nine pixels have
nine different coordinates even where the block wraps (`blockPixel_injective`), so each reads its own intensity. -/

namespace Sys2Proof.Machine

open Sys2Proof

/-! ### The intensities (R181, R182) -/

/-- The mask of a channel keeps bits 7 to 4 (R181). -/
theorem toNat_lowByte_and_highNibble (v : Half) : (lowByte (v &&& 0x00F0)).toNat = 16 * (v.toNat / 16 % 16) := by
  have hbits : lowByte (v &&& 0x00F0) = (v.extractLsb' 4 4).setWidth 8 <<< 4 := by
    refine BitVec.eq_of_getLsbD_eq fun i hi => ?_
    interval_cases i <;> simp [lowByte]
  rw [hbits, BitVec.toNat_shiftLeft, BitVec.toNat_setWidth, BitVec.extractLsb'_toNat, Nat.shiftLeft_eq,
    Nat.shiftRight_eq_div_pow]
  omega

theorem toNat_greenOf (color : Half) : (greenOf color).toNat = 16 * (color.toNat / 16 % 16) :=
  toNat_lowByte_and_highNibble color

theorem toNat_blueOf (color : Half) : (blueOf color).toNat = 16 * (color.toNat / 256 % 16) := by
  rw [blueOf, toNat_lowByte_and_highNibble, BitVec.toNat_ushiftRight, Nat.shiftRight_eq_div_pow, Nat.div_div_eq_div_mul]

theorem toNat_redOf (color : Half) : (redOf color).toNat = 16 * (color.toNat % 16) := by
  rw [redOf, toNat_lowByte_and_highNibble, BitVec.toNat_shiftLeft, Nat.shiftLeft_eq]
  omega

/-- The half of a channel is exact (R182). -/
theorem toNat_half_of_channel {v : Byte} {n : Nat} (h : v.toNat = 16 * n) : (v / 2).toNat = 8 * n := by
  have htwo : (2 : Byte).toNat = 2 := rfl
  rw [BitVec.toNat_udiv, h, htwo]
  omega

/-- Settles O43: each row is a channel, twice, and its half. -/
theorem expandGivesTheNineIntensities : Obligations.ExpandGivesTheNineIntensities := by
  intro color
  have hexpand : (expand color).toList.map BitVec.toNat =
      [(greenOf color).toNat, (greenOf color).toNat, (greenOf color / 2).toNat,
       (blueOf color).toNat, (blueOf color).toNat, (blueOf color / 2).toNat,
       (redOf color).toNat, (redOf color).toNat, (redOf color / 2).toNat] := rfl
  rw [hexpand, toNat_half_of_channel (toNat_greenOf color), toNat_half_of_channel (toNat_blueOf color),
    toNat_half_of_channel (toNat_redOf color), toNat_greenOf, toNat_blueOf, toNat_redOf]

/-! ### The anchor (R183, R187) -/

/-- With the default table every coordinate moves to the one of residue 1 in its 3-cell (R183, D12). -/
theorem add_snapOffset_default (n : Nat) :
    (n : Int) + snapOffset Config.default.htSnap (n % 3) = 3 * (n / 3 : Nat) + 1 := by
  have hr : n % 3 = 0 ∨ n % 3 = 1 ∨ n % 3 = 2 := by omega
  rcases hr with h | h | h <;> simp only [h, snapOffset, Config.default] <;> omega

theorem anchorX_default (x : Half) :
    anchorX Config.default.htSnap x = BitVec.ofInt 16 (3 * (x.toNat / 3 : Nat) + 1) := by
  rw [anchorX, add_snapOffset_default]

theorem anchorY_default (y : Half) :
    anchorY Config.default.htSnap y = BitVec.ofInt 16 (3 * ((y.toNat + 2) / 3 : Nat) - 1) := by
  have hcell := add_snapOffset_default (y.toNat + 2)
  rw [anchorY]
  congr 1
  omega

theorem toNat_ofInt_half (z : Int) : ((BitVec.ofInt 16 z).toNat : Int) = z % 65536 := by
  rw [BitVec.toNat_ofInt]
  exact Int.toNat_of_nonneg (Int.emod_nonneg z (by decide))

/-- Settles O44: the centre of the cell, reduced modulo 2^16, which matters at x = 65535 and at y = 0. -/
theorem anchorIsTheCentreOfTheCell : Obligations.AnchorIsTheCentreOfTheCell := by
  refine ⟨fun t x y => ⟨toNat_ofInt_half _, toNat_ofInt_half _⟩, fun x hx => ?_, by decide, fun y hy => ?_, by decide⟩
  · have hanchor := toNat_ofInt_half (3 * (x.toNat / 3 : Nat) + 1)
    rw [← anchorX_default] at hanchor
    omega
  · have hanchor := toNat_ofInt_half (3 * ((y.toNat + 2) / 3 : Nat) - 1)
    rw [← anchorY_default] at hanchor
    omega

/-! ### The block (R184, R185) -/

theorem exec_setColorBlock (x y color : Half) (s : State) :
    exec (.setColorBlock x y color) s = .next (drawPixels s (blockPixels s x y color)) := rfl

/-- Settles O47: the block depends on the request through its anchor, and that on the request's cell. -/
theorem requestsInOneCellDrawTheSame : Obligations.RequestsInOneCellDrawTheSame := by
  intro s x y x' y' color hsnap hx hy
  have hanchorX : anchorX s.cfg.htSnap x = anchorX s.cfg.htSnap x' := by
    rw [hsnap, anchorX_default, anchorX_default, hx]
  have hanchorY : anchorY s.cfg.htSnap y = anchorY s.cfg.htSnap y' := by
    rw [hsnap, anchorY_default, anchorY_default, hy]
  simp only [exec_setColorBlock, blockPixels, blockPixel, hanchorX, hanchorY]

/-- Settles O45: each coordinate computed over the integers is the one computed modulo 2^16. -/
theorem setColorBlockIsNinePixelWrites : Obligations.SetColorBlockIsNinePixelWrites := by
  intro s x y color
  simp only [ofInt_sub_one_add]
  rfl

theorem mem_blockPixels {s : State} {x y color : Half} {p : Pixel} :
    p ∈ blockPixels s x y color ↔ ∃ i j, p = blockPixel s x y color i j := by
  have hall : ∀ k : Fin 3, k ∈ ([0, 1, 2] : List (Fin 3)) := by decide
  simp only [blockPixels, List.mem_flatMap, List.mem_map, hall, true_and, eq_comm]

/-- Three coordinates in a row are different ones, wrapped or not. -/
theorem add_ofNat_fin_injective {c : Half} {j j' : Fin 3} (h : c + BitVec.ofNat 16 j.val = c + BitVec.ofNat 16 j'.val) :
    j = j' := by
  have hdistinct : ∀ j j' : Fin 3, BitVec.ofNat 16 j.val = BitVec.ofNat 16 j'.val → j = j' := by decide
  exact hdistinct j j' ((BitVec.add_right_inj c).mp h)

/-- No two of the nine pixels have the same coordinates (R186). -/
theorem blockPixel_injective {s : State} {x y color : Half} {i j i' j' : Fin 3}
    (h : ((blockPixel s x y color i j).x, (blockPixel s x y color i j).y) =
      ((blockPixel s x y color i' j').x, (blockPixel s x y color i' j').y)) : i = i' ∧ j = j' := by
  obtain ⟨hx, hy⟩ := Prod.mk.inj h
  exact ⟨add_ofNat_fin_injective hy, add_ofNat_fin_injective hx⟩

/-- The top bits of an 8-bit intensity (R184, R185). -/
theorem pixelColor_setWidth (b : Bpp) (v : Byte) : pixelColor b (v.setWidth 16) = v &&& b.top := by
  rw [pixelColor, lowByte, BitVec.setWidth_setWidth_of_le _ (by decide), BitVec.setWidth_eq]

/-- Settles O46: each of the nine pixels is written once, with its intensity. -/
theorem setColorBlockThenReadEveryPixel : Obligations.SetColorBlockThenReadEveryPixel := by
  intro s x y color
  have hexec := exec_setColorBlock x y color s
  refine ⟨_, hexec, rfl, fun i j hvisible => ?_, fun x' y' hother => ?_, fun _ => read_of_exec_of_not_inBuffer hexec⟩
  · rw [← pixelColor_setWidth]
    refine readPixel_drawPixels_of_mem (p := blockPixel s x y color i j) hvisible (mem_blockPixels.mpr ⟨i, j, rfl⟩)
      fun q hq hxy => ?_
    obtain ⟨i', j', rfl⟩ := mem_blockPixels.mp hq
    obtain ⟨rfl, rfl⟩ := blockPixel_injective hxy
    rfl
  · refine readPixel_drawPixels_other fun p hp => ?_
    obtain ⟨i, j, rfl⟩ := mem_blockPixels.mp hp
    exact hother i j

end Sys2Proof.Machine
end

section
/-! PROOFS. The exceptions (60_exceptions.md): what stands in their place sets one sticky bit (R204) or does nothing at
all (R203, R205, R213). -/

namespace Sys2Proof.Machine

open Sys2Proof

/-! ### Steps that run no command (R204, R213) -/

/-- Settles O8: the word is taken, and without a command it sets ILL_CMD. -/
theorem stepOfReservedOpcode : Obligations.StepOfReservedOpcode := by
  intro s w rest op hinputs hdecode
  calc step s = runWord w (s.setInputs rest) := step_of_command hinputs
    _ = .next (warnIll (s.setInputs rest)) := runWord_of_decode_error _ hdecode

/-- Settles O9: the equation of `step` for the empty list of events. -/
theorem idleStepKeepsTheState : Obligations.IdleStepKeepsTheState :=
  fun _ => step_of_idle

/-! ### Drawing commands that draw nothing (R203, R205) -/

theorem not_inLogical_of_le {s : State} {x y : Half} (h : s.w ≤ x ∨ s.h ≤ y) : ¬ s.inLogical x y :=
  not_and_or.mpr (h.imp BitVec.not_lt.mpr BitVec.not_lt.mpr)

/-- Settles O34: the one pixel write of SET_PIXEL is dropped. -/
theorem setPixelOutsideIsDropped : Obligations.SetPixelOutsideIsDropped := by
  intro s x y color h
  have houtside : ¬ s.inLogical x y := not_inLogical_of_le h
  constructor
  · rw [exec_setPixel, pixelWrite_of_not_inLogical houtside]
    rfl
  · rw [commandAccesses_setPixel, pixelAccesses_of_not_inLogical houtside]

/-- No coordinate is from the start on and below an end that is not above the start. -/
theorem regionPixels_eq_nil {xStart yStart xEnd yEnd : Half} (h : xEnd ≤ xStart ∨ yEnd ≤ yStart) (color : Half) :
    regionPixels xStart.toNat yStart.toNat xEnd.toNat yEnd.toNat color = [] := by
  refine List.eq_nil_iff_forall_not_mem.mpr fun p hp => ?_
  obtain ⟨⟨hx, hx', hy, hy'⟩, -⟩ := mem_regionPixels.mp hp
  cases h with
  | inl h => exact BitVec.not_lt.mpr (BitVec.le_trans h hx) hx'
  | inr h => exact BitVec.not_lt.mpr (BitVec.le_trans h hy) hy'

/-- Settles O39: the region has no pixel, and the command draws the pixels of the region. -/
theorem degenerateRegionDoesNothing : Obligations.DegenerateRegionDoesNothing := by
  intro s xStart yStart xEnd yEnd color h
  have hempty := regionPixels_eq_nil h color
  constructor
  · rw [exec_clearRegion, hempty, drawPixels_nil]
  · rw [commandAccesses_clearRegion, hempty, pixelsAccesses]

end Sys2Proof.Machine
end

section
/-! PROOFS. Reset (70_reset_and_hazards.md): the reset values (R220), what an abandoned command leaves (R221), and what
no command does before the first NEW (R222) or outside a buffer that the block owns (R224). After them how many
accesses each command makes (R232).

One lemma says what a reset during a command can leave (`step_of_abandoned`): at each listed address the byte of the
whole command, elsewhere the old one. That every mixture occurs, and what an abandoned CLEAR has filled, follow from
it. -/

namespace Sys2Proof.Machine

open Sys2Proof

/-! ### The reset values (R220) -/

@[simp] theorem State.resetRegs_cfgWarn (s : State) : s.resetRegs.cfgWarn = false := by simp [State.cfgWarn]
@[simp] theorem State.resetRegs_illCmd (s : State) : s.resetRegs.illCmd = false := by simp [State.illCmd]
@[simp] theorem State.resetRegs_wb (s : State) : s.resetRegs.wb = 0 := State.wb_of_b8 s.resetRegs_bpp
@[simp] theorem State.resetRegs_w (s : State) : s.resetRegs.w = 0 := rfl
@[simp] theorem State.resetRegs_h (s : State) : s.resetRegs.h = 0 := rfl
@[simp] theorem State.resetRegs_grayScale (s : State) : s.resetRegs.grayScale = 256 :=
  State.grayScale_of_b8 s.resetRegs_bpp
@[simp] theorem State.resetRegs_bufSize (s : State) : s.resetRegs.bufSize = 0 := Nat.mul_zero _

/-- Either kind of reset event ends in the reset of every register. -/
theorem step_of_reset_event {s : State} {rest : List Input}
    (h : s.inputs = .reset :: rest ∨ ∃ w landed, s.inputs = .resetDuring w landed :: rest) :
    ∃ u : State, step s = .next u.resetRegs := by
  rcases h with h | ⟨w, landed, h⟩
  · exact ⟨_, step_of_reset h⟩
  · exact ⟨_, step_of_resetDuring h⟩

/-- Settles O10: the registers and derived values after `State.resetRegs`, in which both events end. -/
theorem resetTakesEveryRegisterToItsResetValue : Obligations.ResetTakesEveryRegisterToItsResetValue := by
  intro s rest h
  obtain ⟨u, hu⟩ := step_of_reset_event h
  exact ⟨u.resetRegs, hu, by simp⟩

/-- The reset state is what resetting its registers leaves. -/
theorem State.resetRegs_reset : State.reset.resetRegs = State.reset := rfl

/-- Settles O13: the values after `State.resetRegs`, and the default parameters (00_scope.md R10, R11). -/
theorem resetStateAsTheSpecSays : Obligations.ResetStateAsTheSpecSays := by
  unfold Obligations.ResetStateAsTheSpecSays
  rw [← State.resetRegs_reset]
  simp [State.reset, Config.default, snapOffset]

/-! ### A command that reset abandons (R221, 93_implementation_defined.md U11) -/

/-- `CommandOutcome.mem_eq` for a command word: a reserved opcode makes no access and writes no byte. -/
theorem mem_eq_of_runWord {w : CmdWord} {s u : State} (h : runWord w s = .next u) :
    u.mem = performAll (wordAccesses w s) s.mem := by
  cases hdecode : decode w with
  | ok i =>
    obtain ⟨t, ht, houtcome⟩ := exec_outcome i s
    rw [runWord_of_decode_ok s hdecode] at h
    cases h.symm.trans ht
    rw [wordAccesses, hdecode]
    exact houtcome.mem_eq
  | error e =>
    rw [runWord_of_decode_error s hdecode] at h
    cases h
    rw [wordAccesses_of_decode_error s hdecode]
    rfl

theorem read_of_runWord_of_unwritten {w : CmdWord} {s u : State} (h : runWord w s = .next u) {a : Addr}
    (ha : ∀ v, Access.write a v ∉ wordAccesses w s) : u.mem.read a = s.mem.read a := by
  rw [mem_eq_of_runWord h]
  exact performAll_read_unwritten _ _ ha

/-- Reset during a command: the registers as after reset, each listed byte as the whole command leaves it, every other
byte old. -/
theorem step_of_abandoned {s u : State} {w : CmdWord} {landed : List Addr} {rest : List Input}
    (h : s.inputs = .resetDuring w landed :: rest) (hu : runWord w (s.setInputs rest) = .next u) :
    ∃ t, step s = .next t ∧ t = { State.reset with cfg := s.cfg, mem := t.mem, inputs := rest } ∧
      ∀ a : Addr, t.mem.read a = if a ∈ landed then u.mem.read a else s.mem.read a := by
  refine ⟨_, step_of_resetDuring h, rfl, fun a => ?_⟩
  rw [mem_eq_of_runWord hu]
  exact Memory.read_copyBytes s.mem _ landed a

/-- The addresses at which `isNew` holds. -/
def addrsWhere (isNew : Addr → Bool) : List Addr := ((List.range (2 ^ 32)).map (BitVec.ofNat 32)).filter isNew

theorem mem_addrsWhere {isNew : Addr → Bool} {a : Addr} : a ∈ addrsWhere isNew ↔ isNew a = true := by
  have hall : a ∈ (List.range (2 ^ 32)).map (BitVec.ofNat 32) :=
    List.mem_map.mpr ⟨a.toNat, List.mem_range.mpr a.isLt, by rw [BitVec.ofNat_toNat, BitVec.setWidth_eq]⟩
  rw [addrsWhere, List.mem_filter, and_iff_right hall]

/-- Settles O11: what an abandoned command leaves, and the event that lists exactly the addresses wanted. -/
theorem resetAbandonsTheRunningCommand : Obligations.ResetAbandonsTheRunningCommand := by
  refine ⟨fun s rest h => step_of_reset h, fun s w landed rest h => ?_, fun s w rest h => ?_,
    fun s w rest isNew => ?_⟩
  · obtain ⟨u, hu⟩ := runWord_completes w (s.setInputs rest)
    obtain ⟨t, ht, hregs, hread⟩ := step_of_abandoned h hu
    refine ⟨t, u, ht, hregs, hu, hread, fun a hunwritten => ?_⟩
    have hsame : u.mem.read a = s.mem.read a := read_of_runWord_of_unwritten hu hunwritten
    rw [hread, hsame, ite_self]
  · exact ⟨_, step_of_resetDuring h, rfl⟩
  · obtain ⟨u, hu⟩ := runWord_completes w (s.setInputs rest)
    obtain ⟨t, ht, -, hread⟩ := step_of_abandoned
      (s := s.setInputs (.resetDuring w (addrsWhere isNew) :: rest)) (landed := addrsWhere isNew) rfl hu
    exact ⟨addrsWhere isNew, t, u, ht, hu, fun a => (hread a).trans (if_congr mem_addrsWhere rfl rfl)⟩

/-! ### An abandoned CLEAR (42_framebuffer_commands.md R153, 20_memory.md R64) -/

/-- The whole CLEAR leaves the colour at every offset and every byte outside the buffer as it was. -/
theorem step_of_abandoned_clear {s : State} {w : CmdWord} {color : Half} {landed : List Addr} {rest : List Input}
    (h : s.inputs = .resetDuring w landed :: rest) (hdecode : decode w = .ok (.clear color)) :
    ∃ t, step s = .next t ∧
      (∀ i < s.bufSize, t.mem.read (s.bufAddr i) =
        if s.bufAddr i ∈ landed then lowByte color else s.mem.read (s.bufAddr i)) ∧
      ∀ a : Addr, s.inBuffer a = false → t.mem.read a = s.mem.read a := by
  obtain ⟨u, hu, -, hfilled, hothers, -⟩ := clearFillsTheBuffer (s.setInputs rest) color
  have hrun : runWord w (s.setInputs rest) = .next u := (runWord_of_decode_ok _ hdecode).trans hu
  obtain ⟨t, ht, -, hread⟩ := step_of_abandoned h hrun
  refine ⟨t, ht, fun i hi => ?_, fun a ha => ?_⟩
  · have hnew : u.mem.read (s.bufAddr i) = lowByte color := hfilled i hi
    rw [hread, hnew]
  · have hsame : u.mem.read a = s.mem.read a := hothers a ha
    rw [hread, hsame, ite_self]

/-- An address has one offset in the buffer, so listing the first `n` lists no later one, even where `n` exceeds
BUF_SIZE. -/
theorem State.bufAddr_mem_map_range (s : State) {i : Nat} (hi : i < s.bufSize) (n : Nat) :
    s.bufAddr i ∈ (List.range n).map s.bufAddr ↔ i < n := by
  rw [List.mem_map]
  constructor
  · rintro ⟨j, hj, heq⟩
    rw [List.mem_range] at hj
    by_contra hn
    have hji : j = i := s.bufAddr_injOn (by omega) hi heq
    omega
  · exact fun hn => ⟨i, List.mem_range.mpr hn, rfl⟩

/-- Settles O12: what an abandoned CLEAR leaves, for any list and for the first offsets' addresses. -/
theorem abandonedClearFillsItsFirstBytes : Obligations.AbandonedClearFillsItsFirstBytes := by
  refine ⟨fun s w color landed rest h hdecode => step_of_abandoned_clear h hdecode,
    fun s w color n rest h hdecode => ?_⟩
  obtain ⟨t, ht, hbuffer, -⟩ := step_of_abandoned_clear h hdecode
  refine ⟨t, ht, fun i hi => (hbuffer i hi).trans ?_⟩
  exact if_congr (s.bufAddr_mem_map_range hi n) rfl rfl

/-! ### Before the first NEW (R222), and a buffer the block owns (R224) -/

/-- Without rows the buffer has no byte to access. -/
theorem commandAccesses_of_hm_zero (i : Instr) {s : State} (h : s.hm = 0) : commandAccesses i s = [] := by
  have hsize : s.bufSize = 0 := by
    rw [State.bufSize, h]
    rfl
  refine List.eq_nil_iff_forall_not_mem.mpr fun acc hacc => ?_
  obtain ⟨k, hk, -⟩ := addr_of_mem_commandAccesses hacc
  omega

/-- Settles O55: the memory is what the accesses make of it, and there are none; NEW alone writes the dimensions. -/
theorem nothingIsDrawnBeforeNew : Obligations.NothingIsDrawnBeforeNew := by
  intro i s hwm hhm
  have haccesses : commandAccesses i s = [] := commandAccesses_of_hm_zero i hhm
  obtain ⟨t, ht, houtcome⟩ := exec_outcome i s
  have hmem : t.mem = s.mem := by
    rw [houtcome.mem_eq, haccesses]
    rfl
  refine ⟨haccesses, t, ht, hmem, ?_⟩
  by_cases hkept : t.wm = s.wm ∧ t.hm = s.hm
  · rw [hkept.1, hkept.2]
    exact .inl ⟨hwm, hhm⟩
  · exact .inr (houtcome.writer_of_geometry_ne ((not_and_or.mp hkept).imp_right .inl))

/-- Settles O51: accesses lie in the buffer range, which is owned, and what is not owned lies outside it. -/
theorem ownedBufferIsAllThatChanges : Obligations.OwnedBufferIsAllThatChanges := by
  intro owned i s howns
  obtain ⟨t, ht⟩ := exec_completes i s
  refine ⟨fun acc hacc => howns _ (inBuffer_of_mem_commandAccesses hacc), t, ht, fun a ha => ?_⟩
  exact read_of_exec_of_not_inBuffer ht (Bool.eq_false_of_not_eq_true fun hin => ha (howns a hin))

/-! ### How many accesses (R232, 42_framebuffer_commands.md R155) -/

/-- One store at depth 8, one read and one store below (20_memory.md R61). -/
theorem length_writePixelAccesses (s : State) (a : Addr) (xPhys color : Half) (m : Memory) :
    (writePixelAccesses s a xPhys color m).length = s.accessesPerPixel := by
  unfold writePixelAccesses State.accessesPerPixel
  cases s.bpp <;> rfl

theorem length_pixelAccesses (s : State) (m : Memory) (p : Pixel) :
    (pixelAccesses s m p).length = if s.inLogical p.x p.y then s.accessesPerPixel else 0 := by
  by_cases h : s.inLogical p.x p.y
  · rw [if_pos h, pixelAccesses, pixelTarget_of_inLogical h]
    exact length_writePixelAccesses s _ _ _ m
  · rw [if_neg h, pixelAccesses_of_not_inLogical h, List.length_nil]

/-- Only the pixels inside the logical rectangle count. -/
theorem length_pixelsAccesses (s : State) (ps : List Pixel) (m : Memory) :
    (pixelsAccesses s m ps).length = (s.visible ps).length * s.accessesPerPixel := by
  induction ps generalizing m with
  | nil => exact (Nat.zero_mul _).symm
  | cons p ps ih =>
    rw [pixelsAccesses, List.length_append, length_pixelAccesses, ih]
    by_cases h : s.inLogical p.x p.y
    · rw [if_pos h, s.visible_cons_of_inLogical ps h, List.length_cons, Nat.succ_mul, Nat.add_comm]
    · rw [if_neg h, s.visible_cons_of_not_inLogical ps h, Nat.zero_add]

theorem length_forRange (a b : Nat) : (forRange a b).length = b - a :=
  List.length_range'

theorem length_regionPixels (xStart yStart xEnd yEnd : Nat) (color : Half) :
    (regionPixels xStart yStart xEnd yEnd color).length = (xEnd - xStart) * (yEnd - yStart) := by
  have hrow (y : Nat) : (regionRow xStart xEnd y color).length = xEnd - xStart := by
    rw [regionRow, List.length_map, length_forRange]
  rw [regionPixels_eq_rows, List.length_flatMap]
  simp only [hrow, List.map_const', List.sum_replicate, length_forRange, smul_eq_mul, Nat.mul_comm]

/-- The visible pixels of a region are those of its part inside the logical rectangle. -/
theorem length_commandAccesses_clearRegion (xStart yStart xEnd yEnd color : Half) (s : State) :
    (commandAccesses (.clearRegion xStart yStart xEnd yEnd color) s).length =
      (min xEnd.toNat s.w.toNat - xStart.toNat) * (min yEnd.toNat s.h.toNat - yStart.toNat) * s.accessesPerPixel := by
  rw [commandAccesses_clearRegion, length_pixelsAccesses, ← regionPixels_clipped, length_regionPixels]

/-- Settles O54: no access where nothing is drawn, one write a byte in CLEAR, and the visible pixels of the other
drawing commands. -/
theorem accessCounts : Obligations.AccessCounts := by
  refine fun s => ⟨fun i hdraws => ?_, fun w hreserved => ?_, fun x y color => ?_, fun color => ?_,
    fun xStart yStart xEnd yEnd color => length_commandAccesses_clearRegion xStart yStart xEnd yEnd color s,
    fun x y color => length_pixelsAccesses s (blockPixels s x y color) s.mem⟩
  · rw [commandAccesses_of_not_draws s hdraws, List.length_nil]
  · rw [wordAccesses_of_decode_error s (decode_eq_error_iff.mpr hreserved), List.length_nil]
  · rw [commandAccesses_setPixel, length_pixelAccesses]
  · rw [commandAccesses_clear, List.length_map, List.length_range]

end Sys2Proof.Machine
end
